-- ==== Sys2Proof/Word.lean ====
section
/-!
DEFINITION. The widths of the block's values (00_scope.md R6, R8, R9).
-/

namespace Sys2Proof

/-- A 32-bit value: W, DOUT, the A operand (R6 WORD_W, R24, R60). -/
abbrev Word := BitVec 32

/-- A command word (R60, R6 CMD_W). -/
abbrev Command := BitVec 40

/-- A 10-bit DPD group (R12 "declet", R80). -/
abbrev Declet := BitVec 10

/-- The contents of ROM_EXP: a 2-bit exponent MSB for each combination field (R25). -/
abbrev RomExp := Vector (BitVec 2) 32

/-- The contents of ROM_DIG: a 4-bit digit for each combination field (R25). -/
abbrev RomDig := Vector (BitVec 4) 32

/-- The three decimal digits of a declet: hundreds, tens, units (R80). -/
structure Digits where
  d2 : Nat
  d1 : Nat
  d0 : Nat
  deriving DecidableEq, Repr

end Sys2Proof
end

