-- ==== Sys2Proof/Syntax.lean ====
section
/-!
DEFINITION. The commands of the block, one constructor per row of spec/opcode_table.json (30_encoding.md R65).
A constructor's fields are exactly the operands R63 takes from the command word; the bits R64 calls ignored
are no part of an instruction (log 8).
-/

namespace Sys2Proof

inductive Instr where
  /-- DPD_UNPACK (R86): digit count n = SEL; the packed group, zero-extended to 10 bits (R63, R83). -/
  | dpdUnpack (n : BitVec 2) (packed : Declet)
  /-- DPD_PACK (R87): digit count n = SEL; value = A[9:0] (R63). -/
  | dpdPack (n : BitVec 2) (value : BitVec 10)
  /-- COMB_ENCODE (R104): exp MSB m = A[5:4]; digit d = A[3:0]. -/
  | combEncode (m : BitVec 2) (d : BitVec 4)
  /-- COMB_DECODE (R105): combination field f = A[4:0]. -/
  | combDecode (f : BitVec 5)
  /-- GET_SIGN (R115). -/
  | getSign
  /-- SET_SIGN (R116): B, true = negative. -/
  | setSign (negative : Bool)
  /-- IS_SIGN_POSITIVE (R117). -/
  | isSignPositive
  /-- IS_SIGN_NEGATIVE (R118). -/
  | isSignNegative
  /-- SET_SIGN_POSITIVE (R119). -/
  | setSignPositive
  /-- SET_SIGN_NEGATIVE (R120). -/
  | setSignNegative
  /-- GET_EXPONENT (R131). -/
  | getExponent
  /-- SET_EXPONENT (R132): e = s8(A[7:0]), an EXP_T value whose number is `e.toInt` (R6, R63). -/
  | setExponent (e : BitVec 8)
  /-- GET_COEFFICIENT (R147). -/
  | getCoefficient
  /-- SET_COEFFICIENT (R149): c = A[31:0], a COEFF_T value (R6, R63). -/
  | setCoefficient (c : Word)
  /-- NEW (R160). -/
  | new
  /-- LOAD_RAW (R161): bits = A[31:0]. -/
  | loadRaw (bits : Word)
  /-- READ_RAW (R162). -/
  | readRaw
  /-- FROM_U8 (R164): v = A[7:0]. -/
  | fromU8 (v : BitVec 8)
  /-- FROM_U16 (R165): v = A[15:0]. -/
  | fromU16 (v : BitVec 16)
  /-- FROM_U32 (R166): v = A[31:0]. -/
  | fromU32 (v : Word)
  /-- FROM_U8_CHECKED (R167): v = A[7:0]. -/
  | fromU8Checked (v : BitVec 8)
  /-- FROM_U16_CHECKED (R168): v = A[15:0]. -/
  | fromU16Checked (v : BitVec 16)
  /-- FROM_U32_CHECKED (R169): v = A[31:0]. -/
  | fromU32Checked (v : Word)
  deriving DecidableEq, Repr

end Sys2Proof
end

