-- ==== Sys2Proof/WellFormed.lean ====
section
/-!
DEFINITION. Which instructions a legal command word can give: the digit count of a DPD command is 1, 2 or 3
(R66: SEL = 0 is an illegal encoding) and the packed group of DPD_UNPACK fits the bits R63 reads for that
count (R68: an immediate that does not fit is an assembly error). Every other operand fits by its type.
-/

namespace Sys2Proof

/-- The digit count is one of 1, 2, 3 (R63, R66). -/
def digitCountOk (n : BitVec 2) : Bool := n != 0#2

/-- An n-digit group is 4, 7 or 10 bits wide for n = 1, 2, 3, that is 3n + 1 bits (R83). -/
def groupFits (n : BitVec 2) (packed : Declet) : Bool := decide (packed.toNat < 2 ^ (3 * n.toNat + 1))

/-- The instruction is one that a legal command word gives. -/
def Instr.wellFormed : Instr → Bool
  | .dpdUnpack n packed => digitCountOk n && groupFits n packed
  | .dpdPack n _ => digitCountOk n
  | .combEncode _ _ => true
  | .combDecode _ => true
  | .getSign => true
  | .setSign _ => true
  | .isSignPositive => true
  | .isSignNegative => true
  | .setSignPositive => true
  | .setSignNegative => true
  | .getExponent => true
  | .setExponent _ => true
  | .getCoefficient => true
  | .setCoefficient _ => true
  | .new => true
  | .loadRaw _ => true
  | .readRaw => true
  | .fromU8 _ => true
  | .fromU16 _ => true
  | .fromU32 _ => true
  | .fromU8Checked _ => true
  | .fromU16Checked _ => true
  | .fromU32Checked _ => true

end Sys2Proof
end

