-- ==== Sys2Proof/Decode.lean ====
section
/-!
DEFINITION. The command word and its decoder (30_encoding.md R60 to R66), the encoder beside it (R60, R68), and
`decodeTableWord`, the decoder on the opcode table's numbering of the bits.
-/

namespace Sys2Proof

/-- OP = CMD[39:35] (R60). -/
def opOf (w : Command) : BitVec 5 := w.extractLsb' 35 5

/-- SEL = CMD[34:33] (R60). -/
def selOf (w : Command) : BitVec 2 := w.extractLsb' 33 2

/-- B = CMD[32] (R60). -/
def bOf (w : Command) : Bool := w.getLsbD 32

/-- A = CMD[31:0] (R60). -/
def aOf (w : Command) : Word := w.extractLsb' 0 32

/-- `CMD = (OP << 35) | (SEL << 33) | (B << 32) | A` (R60). -/
def mkCommand (op : BitVec 5) (sel : BitVec 2) (b : Bool) (a : Word) : Command :=
  (op.setWidth 40 <<< 35) ||| (sel.setWidth 40 <<< 33) ||| ((BitVec.ofBool b).setWidth 40 <<< 32)
    ||| a.setWidth 40

/-- Why a command word is illegal; the block raises BAD_COMMAND for each (R62, R66). -/
inductive DecodeError where
  /-- OP = 0x00 or OP in 0x18..0x1F (R62, R65, R66). -/
  | reservedOp (op : BitVec 5)
  /-- SEL = 0 on DPD_UNPACK or DPD_PACK (R62, R66). -/
  | zeroDigitCount (op : BitVec 5)
  deriving DecidableEq, Repr

/-- The bits of A that DPD_UNPACK reads: A[3:0], A[6:0] or A[9:0] for n = 1, 2, 3, zero-extended to 10 bits
(R63, R83). -/
def packedOperand (n : BitVec 2) (a : Word) : Declet :=
  if n = 1#2 then (a.extractLsb' 0 4).setWidth 10
  else if n = 2#2 then (a.extractLsb' 0 7).setWidth 10
  else a.extractLsb' 0 10

/-- The opcode map of R65 with the operand assembly of R63, on the four fields of a command word. The
refusals are R62's, in its order. -/
def decodeFields (op : BitVec 5) (sel : BitVec 2) (b : Bool) (a : Word) : Except DecodeError Instr :=
  match op.toNat with
  | 0x01 => if sel = 0#2 then .error (.zeroDigitCount op) else .ok (.dpdUnpack sel (packedOperand sel a))
  | 0x02 => if sel = 0#2 then .error (.zeroDigitCount op) else .ok (.dpdPack sel (a.extractLsb' 0 10))
  | 0x03 => .ok (.combEncode (a.extractLsb' 4 2) (a.extractLsb' 0 4))
  | 0x04 => .ok (.combDecode (a.extractLsb' 0 5))
  | 0x05 => .ok .getSign
  | 0x06 => .ok (.setSign b)
  | 0x07 => .ok .isSignPositive
  | 0x08 => .ok .isSignNegative
  | 0x09 => .ok .setSignPositive
  | 0x0A => .ok .setSignNegative
  | 0x0B => .ok .getExponent
  | 0x0C => .ok (.setExponent (a.extractLsb' 0 8))
  | 0x0D => .ok .getCoefficient
  | 0x0E => .ok (.setCoefficient a)
  | 0x0F => .ok .new
  | 0x10 => .ok (.loadRaw a)
  | 0x11 => .ok .readRaw
  | 0x12 => .ok (.fromU8 (a.extractLsb' 0 8))
  | 0x13 => .ok (.fromU16 (a.extractLsb' 0 16))
  | 0x14 => .ok (.fromU32 a)
  | 0x15 => .ok (.fromU8Checked (a.extractLsb' 0 8))
  | 0x16 => .ok (.fromU16Checked (a.extractLsb' 0 16))
  | 0x17 => .ok (.fromU32Checked a)
  | _ => .error (.reservedOp op)

/-- R62: decode a command word, rejecting the illegal encodings of R66 by name. -/
def decode (w : Command) : Except DecodeError Instr :=
  decodeFields (opOf w) (selOf w) (bOf w) (aOf w)

/-- The OP value of an instruction (R65). -/
def opcode : Instr → BitVec 5
  | .dpdUnpack _ _ => 0x01#5
  | .dpdPack _ _ => 0x02#5
  | .combEncode _ _ => 0x03#5
  | .combDecode _ => 0x04#5
  | .getSign => 0x05#5
  | .setSign _ => 0x06#5
  | .isSignPositive => 0x07#5
  | .isSignNegative => 0x08#5
  | .setSignPositive => 0x09#5
  | .setSignNegative => 0x0A#5
  | .getExponent => 0x0B#5
  | .setExponent _ => 0x0C#5
  | .getCoefficient => 0x0D#5
  | .setCoefficient _ => 0x0E#5
  | .new => 0x0F#5
  | .loadRaw _ => 0x10#5
  | .readRaw => 0x11#5
  | .fromU8 _ => 0x12#5
  | .fromU16 _ => 0x13#5
  | .fromU32 _ => 0x14#5
  | .fromU8Checked _ => 0x15#5
  | .fromU16Checked _ => 0x16#5
  | .fromU32Checked _ => 0x17#5

/-- The word the assembler makes of an instruction (R60, R63, R68): every field the syntax does not set is 0. -/
def encode (i : Instr) : Command :=
  match i with
  | .dpdUnpack n packed => mkCommand (opcode i) n false (packed.setWidth 32)
  | .dpdPack n value => mkCommand (opcode i) n false (value.setWidth 32)
  | .combEncode m d => mkCommand (opcode i) 0 false ((m.setWidth 32 <<< 4) ||| d.setWidth 32)
  | .combDecode f => mkCommand (opcode i) 0 false (f.setWidth 32)
  | .getSign => mkCommand (opcode i) 0 false 0
  | .setSign negative => mkCommand (opcode i) 0 negative 0
  | .isSignPositive => mkCommand (opcode i) 0 false 0
  | .isSignNegative => mkCommand (opcode i) 0 false 0
  | .setSignPositive => mkCommand (opcode i) 0 false 0
  | .setSignNegative => mkCommand (opcode i) 0 false 0
  | .getExponent => mkCommand (opcode i) 0 false 0
  | .setExponent e => mkCommand (opcode i) 0 false (e.setWidth 32)
  | .getCoefficient => mkCommand (opcode i) 0 false 0
  | .setCoefficient c => mkCommand (opcode i) 0 false c
  | .new => mkCommand (opcode i) 0 false 0
  | .loadRaw bits => mkCommand (opcode i) 0 false bits
  | .readRaw => mkCommand (opcode i) 0 false 0
  | .fromU8 v => mkCommand (opcode i) 0 false (v.setWidth 32)
  | .fromU16 v => mkCommand (opcode i) 0 false (v.setWidth 32)
  | .fromU32 v => mkCommand (opcode i) 0 false v
  | .fromU8Checked v => mkCommand (opcode i) 0 false (v.setWidth 32)
  | .fromU16Checked v => mkCommand (opcode i) 0 false (v.setWidth 32)
  | .fromU32Checked v => mkCommand (opcode i) 0 false v

/-- The command word that the table's numbering gives: one 40-bit word, bit 0 its least significant bit; the
bits at and above `nbits` are 0 (R60, R61; the block has no byte order, R43). Log 11. -/
def tableWord (nbits w : Nat) : Command := BitVec.ofNat 40 (w % 2 ^ nbits)

/-- The instruction the decoder reads from a table word; none where the decoder refuses it. -/
def decodeTableWord (nbits w : Nat) : Option Instr :=
  match decode (tableWord nbits w) with
  | .ok i => some i
  | .error _ => none

end Sys2Proof
end

