-- ==== Sys2Proof/Config.lean ====
section
/-!
DEFINITION. The implementation parameters of 00_scope.md R6, each at the value this block takes, and the
contents of the two read-only tables. The block has no open value, so no constant here is opaque
(93_implementation_defined.md part 1: no behaviour is `stuck` or `any value`).
-/

namespace Sys2Proof.Config

/-- RESET_WORD, the value of `new()` and of reset (R6, R32; 90_conflicts.md C2). Log 4. -/
def resetWord : Word := 0x60000000#32

/-- BIAS (R6): logical exponent = biased exponent - 101. -/
def bias : Int := 101

/-- EXP_SET_MIN, the lower end of the setter's window (R6; 90_conflicts.md C3). -/
def expSetMin : Int := -95

/-- EXP_SET_MAX, the upper end of the setter's window (R6; 90_conflicts.md C3). -/
def expSetMax : Int := 96

/-- COEFF_MAX, seven nines (R6, R5). -/
def coeffMax : Nat := 9999999

/-- The contents of ROM_EXP: rows 0 to 23 by R100, rows 24 to 31 by R101 (R25's listing).
Rows 30 and 31 are decision D6 (log 6). -/
def romExp : RomExp :=
  #v[0, 0, 0, 0, 0, 0, 0, 0,
     1, 1, 1, 1, 1, 1, 1, 1,
     2, 2, 2, 2, 2, 2, 2, 2,
     0, 0, 1, 1, 2, 2, 3, 3]

/-- The contents of ROM_DIG: rows 0 to 23 by R100, rows 24 to 31 by R101 (R25's listing).
Rows 30 and 31 are decision D6 (log 6). -/
def romDig : RomDig :=
  #v[0, 1, 2, 3, 4, 5, 6, 7,
     0, 1, 2, 3, 4, 5, 6, 7,
     0, 1, 2, 3, 4, 5, 6, 7,
     8, 9, 8, 9, 8, 9, 8, 9]

end Sys2Proof.Config
end

