-- ==== Sys2Proof/Machine/State.lean ====
section
/-!
DEFINITION. The state of the block (10_state.md R20, R21, R23, R24, R25), the status names of R23, what the host
drives on the input ports (R29), and the state after reset (R32, R33, R212).
-/

namespace Sys2Proof.Machine

/-- The results a command can report (R23, R187); `statusCode` in Machine/Flags.lean gives each its code. -/
inductive Status where
  /-- The command completed. -/
  | ok
  /-- SET_EXPONENT with e > 96. -/
  | expTooLarge
  /-- SET_EXPONENT with e < -95. -/
  | expTooSmall
  /-- SET_COEFFICIENT or FROM_U32 above 9,999,999. -/
  | coeffOutOfRange
  /-- A checked conversion that would lose information. -/
  | noValue
  /-- An operand outside the domain of DPD_PACK or COMB_ENCODE. -/
  | badOperand
  /-- A reserved OP value, or SEL = 0 on a DPD command. -/
  | badCommand
  deriving DecidableEq, Repr

/-- What the host drives on the input ports in one step (R29): RST and CMD. -/
structure PortSample where
  rst : Bool
  cmd : Command
  deriving DecidableEq, Repr

/-- The architectural state (R20) and, last, the model's own field `inputs` (log 1). -/
structure State where
  /-- W, the Decimal32 word register (R21, R22). -/
  w : Word
  /-- DOUT, the output register (R24). -/
  dout : Word
  /-- STATUS, the 3-bit status register (R23); code 7 is never written. -/
  status : BitVec 3
  /-- ROM_EXP (R25); nothing writes it (log 7). -/
  romExp : RomExp
  /-- ROM_DIG (R25); nothing writes it (log 7). -/
  romDig : RomDig
  /-- The port samples the host has yet to present, oldest first: the input of the coming steps, not state
  of the block (R20, R29, R47). DESIGN CHOICE, log 1. -/
  inputs : List PortSample
  deriving DecidableEq, Repr

/-- The block has no fault: it "never halts, hangs or enters a fault state" (R185), and a failed command is a
next state (R186). So the type has no constructor; nothing raises a fault. -/
inductive Fault : Type
  deriving DecidableEq, Repr

/-- Reasons for which the model would give an instruction no meaning. -/
inductive Refusal where
  /-- The instruction of this mnemonic has no meaning in the model. Only a refused arm of `exec` could raise
  it, and no arm is refused: every command of R65 is modelled. Safe. -/
  | notModelled (mnemonic : String)
  deriving DecidableEq, Repr

/-- The outcome of one step of this machine. -/
abbrev Result := Host.Outcome State Fault Refusal

/-- The state right after reset (R32, R33, R210, R212): W = RESET_WORD, DOUT = 0, STATUS = 0 (OK), the ROMs with
their constant contents; the host has presented nothing (log 1). -/
def State.reset : State where
  w := Config.resetWord
  dout := 0#32
  status := 0#3
  romExp := Config.romExp
  romDig := Config.romDig
  inputs := []

end Sys2Proof.Machine
end

