-- ==== Sys2Proof/Machine/Operands.lean ====
section
/-!
DEFINITION. How results go into DOUT and how integers are narrowed (00_scope.md R9, 20_memory.md R44): narrow
results are zero-extended, the logical exponent is sign-extended. The operands themselves are assembled by the
decoder (R63). Also the reads of the two tables (R10) and the digit limit of a DPD command.
-/

namespace Sys2Proof.Machine

/-- `zext_32` of a narrower value (R9, R44). -/
def zext32 {n : Nat} (v : BitVec n) : Word := v.setWidth 32

/-- `zext_32` of a mathematical integer below 2^32 (R9). -/
def natWord (v : Nat) : Word := BitVec.ofNat 32 v

/-- `sext_32` of an EXP_T value (R9, R44, R131). -/
def sext32 (v : BitVec 8) : Word := v.signExtend 32

/-- `s8`: narrow an integer to EXP_T, 8-bit two's complement, by wrapping (R9, R130; decision D4, log 5). -/
def s8 (v : Int) : BitVec 8 := BitVec.ofInt 8 v

/-- `ROM_EXP[f]` (R10, R25). -/
def romExpAt (rom : RomExp) (f : BitVec 5) : BitVec 2 := rom[f.toNat]'f.isLt

/-- `ROM_DIG[f]` (R10, R25). -/
def romDigAt (rom : RomDig) (f : BitVec 5) : BitVec 4 := rom[f.toNat]'f.isLt

/-- `10^n`, the first value too large for n digits (R87). -/
def digitLimit (n : BitVec 2) : Nat := 10 ^ n.toNat

end Sys2Proof.Machine
end

