-- ==== Sys2Proof/Machine/Flags.lean ====
section
/-!
DEFINITION. STATUS, the only condition register (10_state.md R23, R27): the code of each status, and each
command's own checks in the order its pseudocode lists them (60_exceptions.md R187, R188).
-/

namespace Sys2Proof.Machine

/-- `code(<Status>)` (R23). -/
def statusCode : Status → BitVec 3
  | .ok => 0#3
  | .expTooLarge => 1#3
  | .expTooSmall => 2#3
  | .coeffOutOfRange => 3#3
  | .noValue => 4#3
  | .badOperand => 5#3
  | .badCommand => 6#3

/-- R62's check of SEL on the DPD commands. The decoder has refused SEL = 0 already; a term with n = 0 raises
the same status (log 9). -/
def digitCountError (n : BitVec 2) : Option Status :=
  if n = 0#2 then some .badCommand else none

/-- DPD_PACK: BAD_COMMAND for SEL = 0 (R62), then BAD_OPERAND when the value has more than n digits (R87). -/
def packError (n : BitVec 2) (value : BitVec 10) : Option Status :=
  if n = 0#2 then some .badCommand
  else if digitLimit n ≤ value.toNat then some .badOperand
  else none

/-- COMB_ENCODE: BAD_OPERAND when the digit is above 9 (R104). -/
def combDigitError (d : BitVec 4) : Option Status :=
  if 9 < d.toNat then some .badOperand else none

/-- SET_EXPONENT: EXP_TOO_LARGE above the window, EXP_TOO_SMALL below it (R132). -/
def exponentError (e : Int) : Option Status :=
  if Config.expSetMax < e then some .expTooLarge
  else if e < Config.expSetMin then some .expTooSmall
  else none

/-- SET_COEFFICIENT and FROM_U32: COEFF_OUT_OF_RANGE above 9,999,999 (R149, R166). -/
def coefficientError (c : Nat) : Option Status :=
  if Config.coeffMax < c then some .coeffOutOfRange else none

/-- A checked conversion: NO_VALUE when it would lose information, that is above 9,999,999 (R169; 91 N22). -/
def conversionError (v : Nat) : Option Status :=
  if Config.coeffMax < v then some .noValue else none

end Sys2Proof.Machine
end

