-- ==== Sys2Proof/Machine/Ops.lean ====
section
/-!
DEFINITION. The named operations over the registers: the fields of W (10_state.md R22) and their masked writes
(R31), completing a command, raising a status (the block's whole exception mechanism: 00_scope.md R10,
60_exceptions.md R186, R190; nothing is saved and there is no return, R191), reset (70_reset_and_hazards.md R210),
and taking the next port sample (R29).
-/

namespace Sys2Proof.Machine

/-! ### The fields of W -/

/-- SIGN = W[31], true = negative (R22). -/
def signOf (w : Word) : Bool := w.getLsbD 31

/-- COMB = W[30:26] (R22). -/
def combOf (w : Word) : BitVec 5 := w.extractLsb' 26 5

/-- ECONT = W[25:20] (R22). -/
def econtOf (w : Word) : BitVec 6 := w.extractLsb' 20 6

/-- CCONT = W[19:0] (R22). -/
def ccontOf (w : Word) : BitVec 20 := w.extractLsb' 0 20

/-- The upper declet W[19:10], the thousands (R22). -/
def upperDecletOf (w : Word) : Declet := w.extractLsb' 10 10

/-- The lower declet W[9:0], the units (R22). -/
def lowerDecletOf (w : Word) : Declet := w.extractLsb' 0 10

/-- `(W & 0x7FFF_FFFF) | (zext_32(b) << 31)` (R116). -/
def withSign (w : Word) (b : Bool) : Word :=
  (w &&& 0x7FFFFFFF#32) ||| (zext32 (BitVec.ofBool b) <<< 31)

/-- `(W & 0x800F_FFFF) | (f << 26) | (cont << 20)` (R132). -/
def withCombEcont (w : Word) (f : BitVec 5) (cont : BitVec 6) : Word :=
  (w &&& 0x800FFFFF#32) ||| (zext32 f <<< 26) ||| (zext32 cont <<< 20)

/-- `(W & 0x83F0_0000) | (f << 26) | ccont` (R149, R163). -/
def withCombCcont (w : Word) (f : BitVec 5) (ccont : BitVec 20) : Word :=
  (w &&& 0x83F00000#32) ||| (zext32 f <<< 26) ||| zext32 ccont

/-! ### What a command does to the registers -/

/-- A command that reads: `DOUT <- d; STATUS <- OK`. -/
def complete (d : Word) (s : State) : State :=
  { s with dout := d, status := statusCode .ok }

/-- A command that writes W: `W <- v; DOUT <- W; STATUS <- OK` (DOUT is the new value). -/
def writeWord (v : Word) (s : State) : State :=
  { s with w := v, dout := v, status := statusCode .ok }

/-- `raise <Status>()`: STATUS <- the code, DOUT <- 0, W unchanged, nothing else (R10, R186). -/
def raise (st : Status) (s : State) : State :=
  { s with dout := 0#32, status := statusCode st }

/-- A command whose checks give `error`: it raises that status, and no later line of its pseudocode runs, or it
has its effect (R10, R186). -/
def checked (error : Option Status) (s effect : State) : Result :=
  match error with
  | some st => .next (raise st s)
  | none => .next effect

/-- Reset, a step of its own: W <- RESET_WORD, DOUT <- 0, STATUS <- OK, whatever the state before; the ROMs need
no reset (R210). The samples not yet presented are the host's and stay (log 1). -/
def resetBlock (s : State) : State :=
  { s with w := Config.resetWord, dout := 0#32, status := statusCode .ok }

/-! ### The input ports -/

/-- The port sample of this step and the state with it taken; none when the host presents nothing (R29, R47;
logs 1 and 2). -/
def takeSample (s : State) : Option (PortSample × State) :=
  match s.inputs with
  | [] => none
  | p :: rest => some (p, { s with inputs := rest })

/-- The host presents the command word `cmd` in the next step, in place of the sample it would have presented
then (log 1). -/
def presentCommand (s : State) (cmd : Command) : State :=
  { s with inputs := { rst := false, cmd := cmd } :: s.inputs.tail }

end Sys2Proof.Machine
end

