-- ==== Sys2Proof/Machine/Combination.lean ====
section
/-!
DEFINITION. The combination-field family (41_combination.md): the encoder ENC_COMB and the commands COMB_ENCODE and
COMB_DECODE. Decoding goes through the two tables.
-/

namespace Sys2Proof.Machine

/-- `ENC_COMB(m, d)` (R103). -/
def encComb (m : BitVec 2) (d : BitVec 4) : BitVec 5 :=
  if d.toNat ≤ 7 then (m.setWidth 5 <<< 3) ||| d.setWidth 5
  else 0x18#5 ||| (m.setWidth 5 <<< 1) ||| (d &&& 1#4).setWidth 5

/-- COMB_ENCODE (R104). -/
def execCombEncode (m : BitVec 2) (d : BitVec 4) (s : State) : Result :=
  checked (combDigitError d) s (complete (zext32 (encComb m d)) s)

/-- COMB_DECODE (R105). -/
def execCombDecode (f : BitVec 5) (s : State) : Result :=
  .next (complete (zext32 (romExpAt s.romExp f) <<< 4 ||| zext32 (romDigAt s.romDig f)) s)

end Sys2Proof.Machine
end

