-- ==== Sys2Proof/Machine/Dpd.lean ====
section
/-!
DEFINITION. The DPD codec family (40_dpd_codec.md): the decode table DPD3, VAL3, DPDN, the canonical encoder
DPDENC, and the commands DPD_UNPACK and DPD_PACK.
-/

namespace Sys2Proof.Machine

/-- Bit i of a declet as the number 0 or 1 (R80). -/
def decletBit (b : Declet) (i : Nat) : Nat := (b.getLsbD i).toNat

/-- `DPD3(b)`: the 8-case decode table (R81; bit names of R80). -/
def dpd3 (b : Declet) : Digits :=
  let p := decletBit b 9
  let q := decletBit b 8
  let r := decletBit b 7
  let s := decletBit b 6
  let t := decletBit b 5
  let u := decletBit b 4
  let v := decletBit b 3
  let w := decletBit b 2
  let x := decletBit b 1
  let y := decletBit b 0
  if v = 0 then ⟨4 * p + 2 * q + r, 4 * s + 2 * t + u, 4 * w + 2 * x + y⟩
  else if w = 0 ∧ x = 0 then ⟨4 * p + 2 * q + r, 4 * s + 2 * t + u, 8 + y⟩
  else if w = 0 ∧ x = 1 then ⟨4 * p + 2 * q + r, 8 + u, 4 * s + 2 * t + y⟩
  else if w = 1 ∧ x = 0 then ⟨8 + r, 4 * s + 2 * t + u, 4 * p + 2 * q + y⟩
  else if s = 0 ∧ t = 0 then ⟨8 + r, 8 + u, 4 * p + 2 * q + y⟩
  else if s = 0 ∧ t = 1 then ⟨8 + r, 4 * p + 2 * q + u, 8 + y⟩
  else if s = 1 ∧ t = 0 then ⟨4 * p + 2 * q + r, 8 + u, 8 + y⟩
  else ⟨8 + r, 8 + u, 8 + y⟩

/-- `VAL3(b) = d2*100 + d1*10 + d0` (R81). -/
def val3 (b : Declet) : Nat :=
  100 * (dpd3 b).d2 + 10 * (dpd3 b).d1 + (dpd3 b).d0

/-- `DPDN(a, n)`: the low n digits of the group taken from the low 4, 7 or 10 bits, zero-extended (R83). -/
def dpdN (a : Declet) (n : BitVec 2) : Nat :=
  if n = 1#2 then (dpd3 ((a.extractLsb' 0 4).setWidth 10)).d0
  else if n = 2#2 then
    10 * (dpd3 ((a.extractLsb' 0 7).setWidth 10)).d1 + (dpd3 ((a.extractLsb' 0 7).setWidth 10)).d0
  else val3 a

/-- A declet from its bits p q r s t u v w x y (R80). -/
def declet (p q r s t u v w x y : Bool) : Declet :=
  BitVec.ofNat 10
    (512 * p.toNat + 256 * q.toNat + 128 * r.toNat + 64 * s.toNat + 32 * t.toNat + 16 * u.toNat
      + 8 * v.toNat + 4 * w.toNat + 2 * x.toNat + y.toNat)

/-- The encoding table of R85 on the digits d2 = abcd, d1 = efgh, d0 = ijkm. -/
def dpdEncDigits (d2 d1 d0 : Nat) : Declet :=
  let b := d2.testBit 2
  let c := d2.testBit 1
  let d := d2.testBit 0
  let f := d1.testBit 2
  let g := d1.testBit 1
  let h := d1.testBit 0
  let j := d0.testBit 2
  let k := d0.testBit 1
  let m := d0.testBit 0
  match d2.testBit 3, d1.testBit 3, d0.testBit 3 with
  | false, false, false => declet b c d f g h false j k m
  | false, false, true => declet b c d f g h true false false m
  | false, true, false => declet b c d j k h true false true m
  | true, false, false => declet j k d f g h true true false m
  | true, true, false => declet j k d false false h true true true m
  | true, false, true => declet f g d false true h true true true m
  | false, true, true => declet b c d true false h true true true m
  | true, true, true => declet false false d true true h true true true m

/-- `DPDENC(v)`, for v in 0..999: the canonical pattern (R84), by the standard table (R85), which the spec says
gives the smallest pattern for all 1000 values. Log 10. -/
def dpdEnc (v : Nat) : Declet := dpdEncDigits (v / 100) (v / 10 % 10) (v % 10)

/-- DPD_UNPACK (R86). -/
def execDpdUnpack (n : BitVec 2) (packed : Declet) (s : State) : Result :=
  checked (digitCountError n) s (complete (natWord (dpdN packed n)) s)

/-- DPD_PACK (R87). -/
def execDpdPack (n : BitVec 2) (value : BitVec 10) (s : State) : Result :=
  checked (packError n value) s (complete (zext32 (dpdEnc value.toNat)) s)

end Sys2Proof.Machine
end

