-- ==== Sys2Proof/Machine/Coefficient.lean ====
section
/-!
DEFINITION. The coefficient family (44_coefficient.md): COEFF_OF, CCONT_OF and the commands GET_COEFFICIENT and
SET_COEFFICIENT.
-/

namespace Sys2Proof.Machine

/-- `COEFF_OF(w) = msd * 1_000_000 + hi * 1_000 + lo` (R145). -/
def coeffOf (rom : RomDig) (w : Word) : Nat :=
  1000000 * (romDigAt rom (combOf w)).toNat + 1000 * val3 (upperDecletOf w) + val3 (lowerDecletOf w)

/-- `CCONT_OF(r) = (DPDENC(r div 1000) << 10) | DPDENC(r mod 1000)`, for r in 0..999,999 (R148). -/
def ccontFor (r : Nat) : BitVec 20 :=
  ((dpdEnc (r / 1000)).setWidth 20 <<< 10) ||| (dpdEnc (r % 1000)).setWidth 20

/-- The word SET_COEFFICIENT writes for c in 0..9,999,999 (R149): the MSD joined with the existing exp MSB, and the
six low digits as two canonical declets. -/
def coefficientWord (rom : RomExp) (w : Word) (c : Nat) : Word :=
  withCombCcont w
    (encComb (romExpAt rom (combOf w)) (BitVec.ofNat 4 (c / 1000000)))
    (ccontFor (c % 1000000))

/-- GET_COEFFICIENT (R147). -/
def execGetCoefficient (s : State) : Result :=
  .next (complete (natWord (coeffOf s.romDig s.w)) s)

/-- SET_COEFFICIENT (R149). -/
def execSetCoefficient (c : Word) (s : State) : Result :=
  checked (coefficientError c.toNat) s (writeWord (coefficientWord s.romExp s.w c.toNat) s)

end Sys2Proof.Machine
end

