-- ==== Sys2Proof/Machine/Construction.lean ====
section
/-!
DEFINITION. The construction family (45_construction.md): NEW, LOAD_RAW, READ_RAW and the six FROM_ commands.
-/

namespace Sys2Proof.Machine

/-- `FROM_INT(v)`: R149's word on the zero word `base`, which is RESET_WORD in every command (R163; `base` is an
argument because R6 makes RESET_WORD a parameter, and 95_test_vectors.md 2.7 gives vectors for another one). -/
def fromInt (base : Word) (rom : RomExp) (v : Nat) : Word := coefficientWord rom base v

/-- NEW (R160). -/
def execNew (s : State) : Result :=
  .next (writeWord Config.resetWord s)

/-- LOAD_RAW (R161). -/
def execLoadRaw (bits : Word) (s : State) : Result :=
  .next (writeWord bits s)

/-- READ_RAW (R162). -/
def execReadRaw (s : State) : Result :=
  .next (complete s.w s)

/-- FROM_U8 (R164). -/
def execFromU8 (v : BitVec 8) (s : State) : Result :=
  .next (writeWord (fromInt Config.resetWord s.romExp v.toNat) s)

/-- FROM_U16 (R165). -/
def execFromU16 (v : BitVec 16) (s : State) : Result :=
  .next (writeWord (fromInt Config.resetWord s.romExp v.toNat) s)

/-- FROM_U32 (R166). -/
def execFromU32 (v : Word) (s : State) : Result :=
  checked (coefficientError v.toNat) s (writeWord (fromInt Config.resetWord s.romExp v.toNat) s)

/-- FROM_U8_CHECKED (R167): no u8 loses information. -/
def execFromU8Checked (v : BitVec 8) (s : State) : Result :=
  .next (writeWord (fromInt Config.resetWord s.romExp v.toNat) s)

/-- FROM_U16_CHECKED (R168): no u16 loses information. -/
def execFromU16Checked (v : BitVec 16) (s : State) : Result :=
  .next (writeWord (fromInt Config.resetWord s.romExp v.toNat) s)

/-- FROM_U32_CHECKED (R169). -/
def execFromU32Checked (v : Word) (s : State) : Result :=
  checked (conversionError v.toNat) s (writeWord (fromInt Config.resetWord s.romExp v.toNat) s)

end Sys2Proof.Machine
end

