-- ==== Sys2Proof/Machine/Exponent.lean ====
section
/-!
DEFINITION. The exponent family (43_exponent.md): EXP_OF and the commands GET_EXPONENT and SET_EXPONENT.
-/

namespace Sys2Proof.Machine

/-- The biased exponent `(msb << 6) | w[25:20]`, 0..255 (R130). -/
def biasedOf (rom : RomExp) (w : Word) : BitVec 8 :=
  ((romExpAt rom (combOf w)).setWidth 8 <<< 6) ||| (econtOf w).setWidth 8

/-- `EXP_OF(w)`: the exact difference biased - 101, narrowed to EXP_T by wrapping (R130). -/
def expOf (rom : RomExp) (w : Word) : BitVec 8 :=
  s8 (((biasedOf rom w).toNat : Int) - Config.bias)

/-- The word SET_EXPONENT writes for e in its window (R132): re-bias, split, and re-encode the combination field
with the existing MSD. -/
def exponentWord (rom : RomDig) (w : Word) (e : Int) : Word :=
  let biased := s8 (e + Config.bias)
  withCombEcont w
    (encComb (biased.extractLsb' 6 2) (romDigAt rom (combOf w)))
    (biased.extractLsb' 0 6)

/-- GET_EXPONENT (R131). -/
def execGetExponent (s : State) : Result :=
  .next (complete (sext32 (expOf s.romExp s.w)) s)

/-- SET_EXPONENT (R132). -/
def execSetExponent (e : BitVec 8) (s : State) : Result :=
  checked (exponentError e.toInt) s (writeWord (exponentWord s.romDig s.w e.toInt) s)

end Sys2Proof.Machine
end

