-- ==== Sys2Proof/Machine/Sign.lean ====
section
/-!
DEFINITION. The sign family (42_sign.md): six commands on W[31].
-/

namespace Sys2Proof.Machine

/-- GET_SIGN (R115): `DOUT <- zext_32(W[31])`. -/
def execGetSign (s : State) : Result :=
  .next (complete (zext32 (BitVec.ofBool (signOf s.w))) s)

/-- SET_SIGN (R116). -/
def execSetSign (negative : Bool) (s : State) : Result :=
  .next (writeWord (withSign s.w negative) s)

/-- IS_SIGN_POSITIVE (R117): `DOUT <- zext_32(1 - W[31])`. -/
def execIsSignPositive (s : State) : Result :=
  .next (complete (zext32 (BitVec.ofBool (!signOf s.w))) s)

/-- IS_SIGN_NEGATIVE (R118): `DOUT <- zext_32(W[31])`. -/
def execIsSignNegative (s : State) : Result :=
  .next (complete (zext32 (BitVec.ofBool (signOf s.w))) s)

/-- SET_SIGN_POSITIVE (R119): `W <- W & 0x7FFF_FFFF`. -/
def execSetSignPositive (s : State) : Result :=
  .next (writeWord (s.w &&& 0x7FFFFFFF#32) s)

/-- SET_SIGN_NEGATIVE (R120): `W <- W | 0x8000_0000`. -/
def execSetSignNegative (s : State) : Result :=
  .next (writeWord (s.w ||| 0x80000000#32) s)

end Sys2Proof.Machine
end

