-- ==== Sys2Proof/Machine/Dispatch.lean ====
section
/-!
DEFINITION. The one dispatch from an instruction to its meaning (30_encoding.md R65).
-/

namespace Sys2Proof.Machine

def exec (i : Instr) (s : State) : Host.Outcome State Fault Refusal :=
  match i with
  | .dpdUnpack n packed => Sys2Proof.Machine.execDpdUnpack n packed s
  | .dpdPack n value => Sys2Proof.Machine.execDpdPack n value s
  | .combEncode m d => Sys2Proof.Machine.execCombEncode m d s
  | .combDecode f => Sys2Proof.Machine.execCombDecode f s
  | .getSign => Sys2Proof.Machine.execGetSign s
  | .setSign negative => Sys2Proof.Machine.execSetSign negative s
  | .isSignPositive => Sys2Proof.Machine.execIsSignPositive s
  | .isSignNegative => Sys2Proof.Machine.execIsSignNegative s
  | .setSignPositive => Sys2Proof.Machine.execSetSignPositive s
  | .setSignNegative => Sys2Proof.Machine.execSetSignNegative s
  | .getExponent => Sys2Proof.Machine.execGetExponent s
  | .setExponent e => Sys2Proof.Machine.execSetExponent e s
  | .getCoefficient => Sys2Proof.Machine.execGetCoefficient s
  | .setCoefficient c => Sys2Proof.Machine.execSetCoefficient c s
  | .new => Sys2Proof.Machine.execNew s
  | .loadRaw bits => Sys2Proof.Machine.execLoadRaw bits s
  | .readRaw => Sys2Proof.Machine.execReadRaw s
  | .fromU8 v => Sys2Proof.Machine.execFromU8 v s
  | .fromU16 v => Sys2Proof.Machine.execFromU16 v s
  | .fromU32 v => Sys2Proof.Machine.execFromU32 v s
  | .fromU8Checked v => Sys2Proof.Machine.execFromU8Checked v s
  | .fromU16Checked v => Sys2Proof.Machine.execFromU16Checked v s
  | .fromU32Checked v => Sys2Proof.Machine.execFromU32Checked v s

end Sys2Proof.Machine
end

