-- ==== Sys2Proof/Machine/Perform.lean ====
section
/-!
DEFINITION. What one step does with the port sample it takes: reset wins over a command of the same step
(70_reset_and_hazards.md R210, R211); otherwise the command word is decoded, an illegal one raises BAD_COMMAND,
and a legal one is performed (30_encoding.md R62).
-/

namespace Sys2Proof.Machine

/-- Perform the command on the CMD port (R62). -/
def performCommand (cmd : Command) (s : State) : Result :=
  match decode cmd with
  | .ok i => exec i s
  | .error _ => .next (raise .badCommand s)

/-- One step on a port sample (R62, R210, R211). -/
def performSample (p : PortSample) (s : State) : Result :=
  if p.rst then .next (resetBlock s) else performCommand p.cmd s

/-- One step (R7, R29, R47). With nothing presented the block holds its state (R198; log 2). -/
def performNext (s : State) : Result :=
  match takeSample s with
  | some (p, s') => performSample p s'
  | none => .next s

end Sys2Proof.Machine
end

