-- ==== Sys2Proof/Machine/Step.lean ====
section
/-!
DEFINITION. One step of the block, and the command word placed where the next step takes it.
-/

namespace Sys2Proof.Machine

/-- One step: take the port sample the host presents and perform it (R7, R29, R62). -/
def step (s : State) : Host.Outcome State Fault Refusal := performNext s

/-- The host presents the table word `w` in the next step (R29; logs 1 and 11). -/
def State.withFetchWord (s : State) (nbits w : Nat) : State :=
  presentCommand s (tableWord nbits w)

end Sys2Proof.Machine
end

