-- ==== Sys2Proof/Safety.lean ====
section
/-!
DEFINITION. The terms the claims are stated in. The fields of a word and of a command are read here by division and
remainder on the number the bits stand for (00_scope.md R8, 10_state.md R22, 30_encoding.md R60), and the tables and
formulas of 41_combination.md by arithmetic: independently of the bit operations of the model.
-/

namespace Sys2Proof.Safety

open Sys2Proof.Machine

/-! ### The invariant -/

/-- ROM_EXP and ROM_DIG hold the contents of R25, R100 and R101. -/
abbrev RomsAsSpecified (s : State) : Prop := s.romExp = Config.romExp ∧ s.romDig = Config.romDig

/-- What every step keeps: the ROM contents (R25), STATUS is never the reserved code 7 (R23), and DOUT is 0 while
STATUS reports a failure (R24, R186). -/
abbrev BlockInvariant (s : State) : Prop :=
  RomsAsSpecified s ∧ s.status ≠ 7#3 ∧ (s.status ≠ 0#3 → s.dout = 0#32)

/-! ### Fields as numbers -/

/-- W[31]. -/
def signN (w : Word) : Nat := w.toNat / 2 ^ 31

/-- W[30:26]. -/
def combN (w : Word) : Nat := w.toNat / 2 ^ 26 % 32

/-- W[25:20]. -/
def econtN (w : Word) : Nat := w.toNat / 2 ^ 20 % 64

/-- W[19:0]. -/
def ccontN (w : Word) : Nat := w.toNat % 2 ^ 20

/-- W[19:10]. -/
def upperN (w : Word) : Nat := w.toNat / 2 ^ 10 % 1024

/-- W[9:0]. -/
def lowerN (w : Word) : Nat := w.toNat % 1024

/-- CMD[39:35]. -/
def opN (c : Command) : Nat := c.toNat / 2 ^ 35

/-- CMD[34:33]. -/
def selN (c : Command) : Nat := c.toNat / 2 ^ 33 % 4

/-! ### The combination field by arithmetic -/

/-- The exponent MSB of combination field f: f[4:3] for f in 0..23 (R100), f[2:1] for f in 24..31 (R101). -/
def msbN (f : Nat) : Nat := if f < 24 then f / 8 else f / 2 % 4

/-- The digit of combination field f: f mod 8 for f in 0..23 (R100), 8 + f[0] for f in 24..31 (R101). -/
def digN (f : Nat) : Nat := if f < 24 then f % 8 else 8 + f % 2

/-- ENC_COMB(m, d) as a number, for m in 0..3 and a digit d (R103). -/
def encN (m d : Nat) : Nat := if d ≤ 7 then 8 * m + d else 24 + 2 * m + d % 2

/-- The biased exponent of a word (R130). -/
def biasedN (w : Word) : Nat := 64 * msbN (combN w) + econtN w

/-- Narrowing to EXP_T of a value in -101..154 (R130). -/
def wrapExp (e : Int) : Int := if e ≤ 127 then e else e - 256

/-- x is the word FROM_INT(v) builds on RESET_WORD = 0x6000_0000, whose combination field is 24 (R163): sign 0,
ECONT 0, the exp MSB ROM_EXP[24] with the MSD of v, and two canonical declets. -/
abbrev IsFromInt (rom : RomExp) (v : Nat) (x : Word) : Prop :=
  signN x = 0 ∧ econtN x = 0 ∧ combN x = encN (romExpAt rom 24#5).toNat (v / 1000000) ∧
    upperN x = (dpdEnc (v / 1000 % 1000)).toNat ∧ lowerN x = (dpdEnc (v % 1000)).toNat

/-! ### Command words -/

/-- The illegal encodings of R66. -/
abbrev IllegalWord (c : Command) : Prop :=
  opN c = 0 ∨ 0x18 ≤ opN c ∨ ((opN c = 1 ∨ opN c = 2) ∧ selN c = 0)

/-- The bits of a command word that decode and the command read: OP, and what R63 lists for the command. Every
other bit is ignored (R64). -/
def readMask (c : Command) : Command :=
  match opN c with
  | 0x01 =>
    match selN c with
    | 1 => 0xFE0000000F#40
    | 2 => 0xFE0000007F#40
    | 3 => 0xFE000003FF#40
    | _ => 0xFE00000000#40
  | 0x02 =>
    match selN c with
    | 0 => 0xFE00000000#40
    | _ => 0xFE000003FF#40
  | 0x03 => 0xF80000003F#40
  | 0x04 => 0xF80000001F#40
  | 0x06 => 0xF900000000#40
  | 0x0C => 0xF8000000FF#40
  | 0x0E => 0xF8FFFFFFFF#40
  | 0x10 => 0xF8FFFFFFFF#40
  | 0x12 => 0xF8000000FF#40
  | 0x13 => 0xF80000FFFF#40
  | 0x14 => 0xF8FFFFFFFF#40
  | 0x15 => 0xF8000000FF#40
  | 0x16 => 0xF80000FFFF#40
  | 0x17 => 0xF8FFFFFFFF#40
  | _ => 0xF800000000#40

/-! ### What a command may change and report -/

/-- Bit k of W is one the command's rule says it writes (R31 and the command rules it points to). -/
def mayWriteBit (i : Instr) (k : Nat) : Bool :=
  match i with
  | .dpdUnpack _ _ => false
  | .dpdPack _ _ => false
  | .combEncode _ _ => false
  | .combDecode _ => false
  | .getSign => false
  | .setSign _ => k == 31
  | .isSignPositive => false
  | .isSignNegative => false
  | .setSignPositive => k == 31
  | .setSignNegative => k == 31
  | .getExponent => false
  | .setExponent _ => decide (20 ≤ k ∧ k ≤ 30)
  | .getCoefficient => false
  | .setCoefficient _ => decide (k ≤ 19 ∨ (26 ≤ k ∧ k ≤ 30))
  | .new => true
  | .loadRaw _ => true
  | .readRaw => false
  | .fromU8 _ => true
  | .fromU16 _ => true
  | .fromU32 _ => true
  | .fromU8Checked _ => true
  | .fromU16Checked _ => true
  | .fromU32Checked _ => true

/-- The STATUS a legal command leaves, by R187's table of causes. -/
def specStatus : Instr → BitVec 3
  | .dpdUnpack _ _ => 0#3
  | .dpdPack n value => if 10 ^ n.toNat ≤ value.toNat then 5#3 else 0#3
  | .combEncode _ d => if 9 < d.toNat then 5#3 else 0#3
  | .combDecode _ => 0#3
  | .getSign => 0#3
  | .setSign _ => 0#3
  | .isSignPositive => 0#3
  | .isSignNegative => 0#3
  | .setSignPositive => 0#3
  | .setSignNegative => 0#3
  | .getExponent => 0#3
  | .setExponent e => if 96 < e.toInt then 1#3 else if e.toInt < -95 then 2#3 else 0#3
  | .getCoefficient => 0#3
  | .setCoefficient c => if 9999999 < c.toNat then 3#3 else 0#3
  | .new => 0#3
  | .loadRaw _ => 0#3
  | .readRaw => 0#3
  | .fromU8 _ => 0#3
  | .fromU16 _ => 0#3
  | .fromU32 v => if 9999999 < v.toNat then 3#3 else 0#3
  | .fromU8Checked _ => 0#3
  | .fromU16Checked _ => 0#3
  | .fromU32Checked v => if 9999999 < v.toNat then 4#3 else 0#3

/-! ### Runs -/

/-- k steps (R217: a run is a finite sequence of steps). -/
def runSteps : Nat → State → Result
  | 0, s => .next s
  | k + 1, s =>
    match step s with
    | .next t => runSteps k t
    | .fault r => .fault r
    | .refused r => .refused r

end Sys2Proof.Safety
end

