-- ==== Sys2Proof/Certificates/Slice0/Obligations.lean ====
section
/-!
DEFINITION. The statements for the provers. Each docstring names the rules of spec/ it comes from.
-/

open Sys2Proof Sys2Proof.Machine Sys2Proof.Safety

/-! ### Encoding and the step -/

/-- Every well-formed instruction, with every operand, is read back from the word the encoder makes of it
(30_encoding.md sections 1 to 4 and 6). -/
def Obligations.DecodeOfEncodeIsIdentity : Prop :=
  ∀ i : Instr, i.wellFormed = true → decode (encode i) = .ok i

/-- A legal word decodes to a well-formed instruction whose own word is the given one with the ignored bits
cleared (R63, R64, R68). -/
def Obligations.EncodeOfDecodeClearsIgnoredBits : Prop :=
  ∀ (c : Command) (i : Instr), decode c = .ok i → i.wellFormed = true ∧ encode i = c &&& readMask c

/-- R63 and R65, row by row: which instruction each OP value selects and which bits each operand is. -/
def Obligations.OperandsComeFromNamedBits : Prop :=
  ∀ c : Command,
    (opN c = 0x01 → selN c = 1 → decode c = .ok (.dpdUnpack 1#2 (BitVec.ofNat 10 (c.toNat % 2 ^ 4)))) ∧
    (opN c = 0x01 → selN c = 2 → decode c = .ok (.dpdUnpack 2#2 (BitVec.ofNat 10 (c.toNat % 2 ^ 7)))) ∧
    (opN c = 0x01 → selN c = 3 → decode c = .ok (.dpdUnpack 3#2 (BitVec.ofNat 10 (c.toNat % 2 ^ 10)))) ∧
    (opN c = 0x02 → selN c ≠ 0 →
      decode c = .ok (.dpdPack (BitVec.ofNat 2 (selN c)) (BitVec.ofNat 10 (c.toNat % 2 ^ 10)))) ∧
    (opN c = 0x03 →
      decode c = .ok (.combEncode (BitVec.ofNat 2 (c.toNat / 2 ^ 4 % 4)) (BitVec.ofNat 4 (c.toNat % 2 ^ 4)))) ∧
    (opN c = 0x04 → decode c = .ok (.combDecode (BitVec.ofNat 5 (c.toNat % 2 ^ 5)))) ∧
    (opN c = 0x05 → decode c = .ok .getSign) ∧
    (opN c = 0x06 → decode c = .ok (.setSign (decide (c.toNat / 2 ^ 32 % 2 = 1)))) ∧
    (opN c = 0x07 → decode c = .ok .isSignPositive) ∧
    (opN c = 0x08 → decode c = .ok .isSignNegative) ∧
    (opN c = 0x09 → decode c = .ok .setSignPositive) ∧
    (opN c = 0x0A → decode c = .ok .setSignNegative) ∧
    (opN c = 0x0B → decode c = .ok .getExponent) ∧
    (opN c = 0x0C → decode c = .ok (.setExponent (BitVec.ofNat 8 (c.toNat % 2 ^ 8)))) ∧
    (opN c = 0x0D → decode c = .ok .getCoefficient) ∧
    (opN c = 0x0E → decode c = .ok (.setCoefficient (BitVec.ofNat 32 (c.toNat % 2 ^ 32)))) ∧
    (opN c = 0x0F → decode c = .ok .new) ∧
    (opN c = 0x10 → decode c = .ok (.loadRaw (BitVec.ofNat 32 (c.toNat % 2 ^ 32)))) ∧
    (opN c = 0x11 → decode c = .ok .readRaw) ∧
    (opN c = 0x12 → decode c = .ok (.fromU8 (BitVec.ofNat 8 (c.toNat % 2 ^ 8)))) ∧
    (opN c = 0x13 → decode c = .ok (.fromU16 (BitVec.ofNat 16 (c.toNat % 2 ^ 16)))) ∧
    (opN c = 0x14 → decode c = .ok (.fromU32 (BitVec.ofNat 32 (c.toNat % 2 ^ 32)))) ∧
    (opN c = 0x15 → decode c = .ok (.fromU8Checked (BitVec.ofNat 8 (c.toNat % 2 ^ 8)))) ∧
    (opN c = 0x16 → decode c = .ok (.fromU16Checked (BitVec.ofNat 16 (c.toNat % 2 ^ 16)))) ∧
    (opN c = 0x17 → decode c = .ok (.fromU32Checked (BitVec.ofNat 32 (c.toNat % 2 ^ 32))))

/-- R64: two words that agree on the bits the command reads have the same effect on every state, whatever the other
bits hold. -/
def Obligations.IgnoredBitsHaveNoEffect : Prop :=
  ∀ (s : State) (c c' : Command), c &&& readMask c = c' &&& readMask c →
    performSample { rst := false, cmd := c } s = performSample { rst := false, cmd := c' } s

/-- R66: the illegal words are exactly the ones the decoder refuses, and the block answers each with STATUS 6,
DOUT 0 and W unchanged. -/
def Obligations.IllegalWordsRaiseBadCommand : Prop :=
  ∀ c : Command,
    ((∃ i, decode c = .ok i) ↔ ¬ IllegalWord c) ∧
    (IllegalWord c → ∀ s : State,
      performSample { rst := false, cmd := c } s = .next { s with dout := 0#32, status := 6#3 })

/-- Words written out from R60 and R65 (95_test_vectors.md section 2) stand for the commands they are listed under. -/
def Obligations.WrittenWordsDecode : Prop :=
  decode 0x0E000003D0#40 = .ok (.dpdUnpack 3#2 0x3D0#10) ∧
  decode 0x0A000003D9#40 = .ok (.dpdUnpack 1#2 9#10) ∧
  decode 0x160000007B#40 = .ok (.dpdPack 3#2 123#10) ∧
  decode 0x1800000025#40 = .ok (.combEncode 2#2 5#4) ∧
  decode 0x20FFFFFFE8#40 = .ok (.combDecode 8#5) ∧
  decode 0x37FFFFFFFF#40 = .ok (.setSign true) ∧
  decode 0x60000000FE#40 = .ok (.setExponent (BitVec.ofInt 8 (-2))) ∧
  decode 0x70000002EE#40 = .ok (.setCoefficient 750#32) ∧
  decode 0xA00098967F#40 = .ok (.fromU32 9999999#32)

/-- A step takes the first port sample (R29, R47) and performs it on the state with that sample taken; when no reset
is requested and the word decodes to an instruction, that is the instruction's meaning (R62). The list of samples is
the model's, log 1. -/
def Obligations.StepPerformsPresentedCommand : Prop :=
  ∀ (s : State) (rest : List PortSample),
    (∀ p : PortSample, step { s with inputs := p :: rest } = performSample p { s with inputs := rest }) ∧
    (∀ (c : Command) (i : Instr), decode c = .ok i →
      step { s with inputs := { rst := false, cmd := c } :: rest } = exec i { s with inputs := rest })

/-- R210 and R211: a step with RST asserted writes W, DOUT and STATUS with their reset values and nothing else,
whatever the state before and whatever command is presented with it; power-on gives the same three values. -/
def Obligations.ResetWinsOverCommand : Prop :=
  (∀ (s : State) (c : Command), performSample { rst := true, cmd := c } s =
      .next { s with w := 0x60000000#32, dout := 0#32, status := 0#3 }) ∧
  State.reset.w = 0x60000000#32 ∧ State.reset.dout = 0#32 ∧ State.reset.status = 0#3

/-- R32 and R33: the reset state, and what the reset word decodes to by the block's own commands. -/
def Obligations.ResetStateAndItsReadings : Prop :=
  State.reset.w = 0x60000000#32 ∧ State.reset.dout = 0#32 ∧ State.reset.status = 0#3 ∧
  RomsAsSpecified State.reset ∧
  signN State.reset.w = 0 ∧ combN State.reset.w = 24 ∧ econtN State.reset.w = 0 ∧ ccontN State.reset.w = 0 ∧
  (∃ d : Word, exec .getExponent State.reset = .next { State.reset with dout := d, status := 0#3 } ∧
    d.toInt = -101) ∧
  (∃ d : Word, exec .getCoefficient State.reset = .next { State.reset with dout := d, status := 0#3 } ∧
    d.toNat = 8000000)

/-- With nothing presented the block holds its state (R198; that a step without a sample exists is the model's
choice, log 2). -/
def Obligations.IdleBlockHoldsItsState : Prop :=
  ∀ s : State, s.inputs = [] → step s = .next s

/-- R185: no step of any state faults or is refused; after any command, a failed one too, the block takes the
next one. (That a step without a sample exists is the model's choice, log 2.) -/
def Obligations.EveryStepCompletes : Prop :=
  ∀ s : State, ∃ t : State, step s = .next t ∧ t.inputs = s.inputs.tail

/-- R47: commands take effect in the order presented (as a list, log 1). Running xs and then, from the state it
leaves, ys is running the two together; every sample is taken and no step stops. -/
def Obligations.CommandsTakeEffectInOrder : Prop :=
  ∀ (s : State) (xs ys : List PortSample), ∃ t u : State,
    runSteps xs.length { s with inputs := xs } = .next t ∧ t.inputs = [] ∧
    runSteps ys.length { t with inputs := ys } = .next u ∧ u.inputs = [] ∧
    runSteps (xs.length + ys.length) { s with inputs := xs ++ ys } = .next u

/-! ### Whole-machine rules -/

/-- The invariant: the ROMs hold what R100 and R101 say, STATUS is never 7, DOUT is 0 while STATUS reports a
failure. Every step keeps it. -/
def Obligations.InvariantKeptByEveryStep : Prop :=
  ∀ s t : State, BlockInvariant s → step s = .next t → BlockInvariant t

/-- The invariant holds at reset. -/
def Obligations.InvariantHoldsAtReset : Prop := BlockInvariant State.reset

/-- R25: no command, and no reset, writes the tables. -/
def Obligations.RomsAreNeverWritten : Prop :=
  ∀ s t : State, step s = .next t → t.romExp = s.romExp ∧ t.romDig = s.romDig

/-- R28: what a command does to W, DOUT and STATUS is a function of W, the ROMs and the command word alone; the
DOUT and STATUS before, and what the host presents later, do not matter. -/
def Obligations.ResultIsFunctionOfWordAndRoms : Prop :=
  ∀ (s s' : State) (c : Command),
    s.w = s'.w → s.romExp = s'.romExp → s.romDig = s'.romDig →
    ∃ t t' : State,
      performSample { rst := false, cmd := c } s = .next t ∧
      performSample { rst := false, cmd := c } s' = .next t' ∧
      t.w = t'.w ∧ t.dout = t'.dout ∧ t.status = t'.status

/-- R186: a failed command (one that leaves a status other than OK) has changed DOUT to 0 and STATUS to a code in
1..6, and nothing else. -/
def Obligations.FailedCommandIsPrecise : Prop :=
  ∀ (s t : State) (c : Command),
    performSample { rst := false, cmd := c } s = .next t → t.status ≠ 0#3 →
    t.status ≠ 7#3 ∧ t = { s with dout := 0#32, status := t.status }

/-- R187: which status each command word leaves, and for what cause; a raised status records nothing but its code
(DOUT is 0 and the rest of the state is as before). -/
def Obligations.StatusOfEveryCommand : Prop :=
  ∀ (s : State) (c : Command), ∃ t : State,
    performSample { rst := false, cmd := c } s = .next t ∧
    (IllegalWord c → t.status = 6#3) ∧
    (∀ i, decode c = .ok i → t.status = specStatus i) ∧
    (t.status ≠ 0#3 → t = { s with dout := 0#32, status := t.status })

/-- R31 and the frame of every command: each bit of W that the command's rule does not name, the ROMs and the
samples still to come are as before. DOUT and STATUS are written by every command (R23, R24). -/
def Obligations.OnlyNamedBitsOfWordChange : Prop :=
  ∀ (i : Instr) (s t : State), exec i s = .next t →
    (∀ k, mayWriteBit i k = false → t.w.getLsbD k = s.w.getLsbD k) ∧
    t.romExp = s.romExp ∧ t.romDig = s.romDig ∧ t.inputs = s.inputs

/-- R46: a command that only reads W, repeated, gives the same state again. -/
def Obligations.ReadingCommandsAreIdempotent : Prop :=
  ∀ (i : Instr) (s : State), (∀ k, mayWriteBit i k = false) →
    ∃ t : State, exec i s = .next t ∧ t.w = s.w ∧ exec i t = .next t

/-! ### DPD codec -/

/-- R81: VAL3, and the eight rows of the decode table on the bits p q r s t u v w x y of the pattern. -/
def Obligations.DpdDecodeTable : Prop :=
  (∀ b : Declet, val3 b = 100 * (dpd3 b).d2 + 10 * (dpd3 b).d1 + (dpd3 b).d0) ∧
  (∀ p q r s t u w x y : Bool,
    dpd3 (declet p q r s t u false w x y) =
      ⟨4 * p.toNat + 2 * q.toNat + r.toNat, 4 * s.toNat + 2 * t.toNat + u.toNat,
        4 * w.toNat + 2 * x.toNat + y.toNat⟩) ∧
  (∀ p q r s t u y : Bool,
    dpd3 (declet p q r s t u true false false y) =
      ⟨4 * p.toNat + 2 * q.toNat + r.toNat, 4 * s.toNat + 2 * t.toNat + u.toNat, 8 + y.toNat⟩ ∧
    dpd3 (declet p q r s t u true false true y) =
      ⟨4 * p.toNat + 2 * q.toNat + r.toNat, 8 + u.toNat, 4 * s.toNat + 2 * t.toNat + y.toNat⟩ ∧
    dpd3 (declet p q r s t u true true false y) =
      ⟨8 + r.toNat, 4 * s.toNat + 2 * t.toNat + u.toNat, 4 * p.toNat + 2 * q.toNat + y.toNat⟩) ∧
  (∀ p q r u y : Bool,
    dpd3 (declet p q r false false u true true true y) =
      ⟨8 + r.toNat, 8 + u.toNat, 4 * p.toNat + 2 * q.toNat + y.toNat⟩ ∧
    dpd3 (declet p q r false true u true true true y) =
      ⟨8 + r.toNat, 4 * p.toNat + 2 * q.toNat + u.toNat, 8 + y.toNat⟩ ∧
    dpd3 (declet p q r true false u true true true y) =
      ⟨4 * p.toNat + 2 * q.toNat + r.toNat, 8 + u.toNat, 8 + y.toNat⟩ ∧
    dpd3 (declet p q r true true u true true true y) = ⟨8 + r.toNat, 8 + u.toNat, 8 + y.toNat⟩)

/-- R82: every one of the 1024 patterns decodes to three decimal digits, and two patterns decode alike exactly
when they are equal or are redundant patterns (v, w, x, s, t all 1) that differ only in b[9:8]. -/
def Obligations.DpdDecodeIsTotal : Prop :=
  ∀ b : Declet, (dpd3 b).d2 ≤ 9 ∧ (dpd3 b).d1 ≤ 9 ∧ (dpd3 b).d0 ≤ 9 ∧ val3 b ≤ 999 ∧
    ∀ b' : Declet, val3 b' = val3 b ↔
      (b' = b ∨ (b &&& 0x06E#10 = 0x06E#10 ∧ b' &&& 0x0FF#10 = b &&& 0x0FF#10))

/-- R84: DPDENC(v) is the smallest pattern that decodes to v; re-encoding the value of a pattern clears b[9:8] of a
redundant one and gives any other back; values of one and of two digits have patterns below 16 and below 128. -/
def Obligations.DpdEncodeIsSmallestPattern : Prop :=
  (∀ v : Nat, v ≤ 999 → val3 (dpdEnc v) = v ∧ ∀ b : Declet, val3 b = v → (dpdEnc v).toNat ≤ b.toNat) ∧
  (∀ b : Declet, dpdEnc (val3 b) = if b &&& 0x06E#10 = 0x06E#10 then b &&& 0x0FF#10 else b) ∧
  (∀ v : Nat, v ≤ 9 → (dpdEnc v).toNat = v) ∧ (∀ v : Nat, v ≤ 99 → (dpdEnc v).toNat < 128)

/-- R85: the eight rows of the encoding table, on the bits of the three digits (abcd, efgh, ijkm). -/
def Obligations.DpdEncodeTable : Prop :=
  (∀ b c d f g h j k m : Bool,
    dpdEnc (100 * (4 * b.toNat + 2 * c.toNat + d.toNat) + 10 * (4 * f.toNat + 2 * g.toNat + h.toNat)
      + (4 * j.toNat + 2 * k.toNat + m.toNat)) = declet b c d f g h false j k m) ∧
  (∀ b c d f g h m : Bool,
    dpdEnc (100 * (4 * b.toNat + 2 * c.toNat + d.toNat) + 10 * (4 * f.toNat + 2 * g.toNat + h.toNat)
      + (8 + m.toNat)) = declet b c d f g h true false false m) ∧
  (∀ b c d h j k m : Bool,
    dpdEnc (100 * (4 * b.toNat + 2 * c.toNat + d.toNat) + 10 * (8 + h.toNat)
      + (4 * j.toNat + 2 * k.toNat + m.toNat)) = declet b c d j k h true false true m) ∧
  (∀ d f g h j k m : Bool,
    dpdEnc (100 * (8 + d.toNat) + 10 * (4 * f.toNat + 2 * g.toNat + h.toNat)
      + (4 * j.toNat + 2 * k.toNat + m.toNat)) = declet j k d f g h true true false m) ∧
  (∀ d h j k m : Bool,
    dpdEnc (100 * (8 + d.toNat) + 10 * (8 + h.toNat) + (4 * j.toNat + 2 * k.toNat + m.toNat)) =
      declet j k d false false h true true true m) ∧
  (∀ d f g h m : Bool,
    dpdEnc (100 * (8 + d.toNat) + 10 * (4 * f.toNat + 2 * g.toNat + h.toNat) + (8 + m.toNat)) =
      declet f g d false true h true true true m) ∧
  (∀ b c d h m : Bool,
    dpdEnc (100 * (4 * b.toNat + 2 * c.toNat + d.toNat) + 10 * (8 + h.toNat) + (8 + m.toNat)) =
      declet b c d true false h true true true m) ∧
  (∀ d h m : Bool,
    dpdEnc (100 * (8 + d.toNat) + 10 * (8 + h.toNat) + (8 + m.toNat)) =
      declet false false d true true h true true true m)

/-- R86 (with DPDN of R83): DPD_UNPACK gives the low n digits of the decode of the group's low 4, 7 or 10 bits, and
never fails for n in 1..3; a word with SEL = 0 raises BAD_COMMAND. W is not written. -/
def Obligations.DpdUnpackResult : Prop :=
  (∀ (packed : Declet) (s : State),
    (∃ d : Word, exec (.dpdUnpack 3#2 packed) s = .next { s with dout := d, status := 0#3 } ∧
      d.toNat = val3 packed) ∧
    (∃ d : Word, exec (.dpdUnpack 2#2 packed) s = .next { s with dout := d, status := 0#3 } ∧
      d.toNat = 10 * (dpd3 (BitVec.ofNat 10 (packed.toNat % 128))).d1
        + (dpd3 (BitVec.ofNat 10 (packed.toNat % 128))).d0) ∧
    (∃ d : Word, exec (.dpdUnpack 1#2 packed) s = .next { s with dout := d, status := 0#3 } ∧
      d.toNat = (dpd3 (BitVec.ofNat 10 (packed.toNat % 16))).d0)) ∧
  (∀ (c : Command) (s : State), opN c = 0x01 → selN c = 0 →
    performSample { rst := false, cmd := c } s = .next { s with dout := 0#32, status := 6#3 })

/-- R83: an n-digit unpack gives a value of at most n digits. -/
def Obligations.DpdUnpackStaysInRange : Prop :=
  ∀ (n : BitVec 2) (packed : Declet) (s : State), n ≠ 0#2 →
    ∃ d : Word, exec (.dpdUnpack n packed) s = .next { s with dout := d, status := 0#3 } ∧
      d.toNat < 10 ^ n.toNat

/-- R87: DPD_PACK gives the canonical pattern of a value of at most n digits and raises BAD_OPERAND for a larger
one; a word with SEL = 0 raises BAD_COMMAND. W is not written. -/
def Obligations.DpdPackResult : Prop :=
  (∀ (n : BitVec 2) (value : BitVec 10) (s : State), n ≠ 0#2 →
    (value.toNat < 10 ^ n.toNat →
      ∃ d : Word, exec (.dpdPack n value) s = .next { s with dout := d, status := 0#3 } ∧
        d.toNat = (dpdEnc value.toNat).toNat) ∧
    (10 ^ n.toNat ≤ value.toNat →
      exec (.dpdPack n value) s = .next { s with dout := 0#32, status := 5#3 })) ∧
  (∀ (c : Command) (s : State), opN c = 0x02 → selN c = 0 →
    performSample { rst := false, cmd := c } s = .next { s with dout := 0#32, status := 6#3 })

/-- R87's round trip: DPD_UNPACK n of the DOUT of DPD_PACK n, v gives v, for every v below 10^n. -/
def Obligations.DpdPackThenUnpackRoundTrips : Prop :=
  ∀ (n : BitVec 2) (value : BitVec 10) (s : State), n ≠ 0#2 → value.toNat < 10 ^ n.toNat →
    ∃ t u : State, exec (.dpdPack n value) s = .next t ∧
      exec (.dpdUnpack n (BitVec.ofNat 10 t.dout.toNat)) t = .next u ∧
      u.dout.toNat = value.toNat ∧ u.status = 0#3 ∧ u.w = s.w

/-- A DPD term with the digit count 0, which no command word decodes to (R62), raises BAD_COMMAND too: the model's
choice, log 9. -/
def Obligations.ZeroDigitCountTermRaises : Prop :=
  ∀ (a : BitVec 10) (s : State),
    exec (.dpdUnpack 0#2 a) s = .next { s with dout := 0#32, status := 6#3 } ∧
    exec (.dpdPack 0#2 a) s = .next { s with dout := 0#32, status := 6#3 }

/-! ### Combination field -/

/-- R100 and R101: the contents of the two tables, and that the reset state holds them. -/
def Obligations.CombinationTables : Prop :=
  RomsAsSpecified State.reset ∧
  ∀ f : BitVec 5,
    (romExpAt Config.romExp f).toNat = msbN f.toNat ∧ (romDigAt Config.romDig f).toNat = digN f.toNat

/-- R104: COMB_ENCODE gives ENC_COMB(m, d) for a digit d in 0..9 and every m, and raises BAD_OPERAND above 9.
W is not written. -/
def Obligations.CombEncodeResult : Prop :=
  ∀ (m : BitVec 2) (d : BitVec 4) (s : State),
    (d.toNat ≤ 9 → ∃ x : Word, exec (.combEncode m d) s = .next { s with dout := x, status := 0#3 } ∧
      x.toNat = encN m.toNat d.toNat) ∧
    (9 < d.toNat → exec (.combEncode m d) s = .next { s with dout := 0#32, status := 5#3 })

/-- R105: COMB_DECODE gives (ROM_EXP[f] << 4) | ROM_DIG[f], so 0x38 and 0x39 for the fields 30 and 31 with the
contents of R101. W is not written. -/
def Obligations.CombDecodeResult : Prop :=
  ∀ (f : BitVec 5) (s : State), ∃ x : Word,
    exec (.combDecode f) s = .next { s with dout := x, status := 0#3 } ∧
    x.toNat = 16 * (romExpAt s.romExp f).toNat + (romDigAt s.romDig f).toNat ∧
    (RomsAsSpecified s → f = 30#5 → x = 0x38#32) ∧ (RomsAsSpecified s → f = 31#5 → x = 0x39#32)

/-- The law of R103: decoding an encoded pair gives the pair back for m in 0..2, and for m = 3 with d in {8, 9};
for m = 3 and d in 0..7 it gives exp MSB (24 + d)[2:1] and digit 8 + (d & 1). -/
def Obligations.CombDecodeOfEncode : Prop :=
  ∀ (m : BitVec 2) (d : BitVec 4) (s : State), RomsAsSpecified s → d.toNat ≤ 9 →
    ∃ t u : State, exec (.combEncode m d) s = .next t ∧
      exec (.combDecode (BitVec.ofNat 5 t.dout.toNat)) t = .next u ∧
      ((m.toNat ≤ 2 ∨ 8 ≤ d.toNat) → u.dout.toNat = 16 * m.toNat + d.toNat) ∧
      ((m.toNat = 3 ∧ d.toNat ≤ 7) →
        u.dout.toNat = 16 * ((24 + d.toNat) / 2 % 4) + (8 + d.toNat % 2))

/-! ### Sign -/

/-- R115, R117, R118: the three sign reads. W is not written. -/
def Obligations.SignReadResults : Prop :=
  ∀ s : State,
    (∃ d : Word, exec .getSign s = .next { s with dout := d, status := 0#3 } ∧ d.toNat = signN s.w) ∧
    (∃ d : Word, exec .isSignPositive s = .next { s with dout := d, status := 0#3 } ∧
      d.toNat = 1 - signN s.w) ∧
    (∃ d : Word, exec .isSignNegative s = .next { s with dout := d, status := 0#3 } ∧ d.toNat = signN s.w)

/-- R116: SET_SIGN writes bit 31 with its operand and leaves bits 30..0; DOUT is the new W. -/
def Obligations.SetSignResult : Prop :=
  ∀ (b : Bool) (s : State), ∃ v : Word,
    exec (.setSign b) s = .next { s with w := v, dout := v, status := 0#3 } ∧
    signN v = b.toNat ∧ v.toNat % 2 ^ 31 = s.w.toNat % 2 ^ 31

/-- R119 and R120: SET_SIGN_POSITIVE clears bit 31 and SET_SIGN_NEGATIVE sets it, every other bit of W kept, with
the same effect as SET_SIGN 0 and SET_SIGN 1. -/
def Obligations.DerivedSignSetters : Prop :=
  ∀ s : State,
    (∃ v : Word, exec .setSignPositive s = .next { s with w := v, dout := v, status := 0#3 } ∧
      signN v = 0 ∧ v.toNat % 2 ^ 31 = s.w.toNat % 2 ^ 31) ∧
    (∃ v : Word, exec .setSignNegative s = .next { s with w := v, dout := v, status := 0#3 } ∧
      signN v = 1 ∧ v.toNat % 2 ^ 31 = s.w.toNat % 2 ^ 31) ∧
    exec .setSignPositive s = exec (.setSign false) s ∧
    exec .setSignNegative s = exec (.setSign true) s

/-- Sign independence (42_sign.md, R116): setting the sign never alters the exponent or the coefficient read back
afterward, whatever W and the ROMs hold. -/
def Obligations.SignDoesNotDisturbValue : Prop :=
  ∀ (b : Bool) (s : State), ∃ t e e' c c' : State,
    exec (.setSign b) s = .next t ∧
    exec .getExponent s = .next e ∧ exec .getExponent t = .next e' ∧ e'.dout = e.dout ∧
    exec .getCoefficient s = .next c ∧ exec .getCoefficient t = .next c' ∧ c'.dout = c.dout

/-! ### Exponent -/

/-- R130 and R131: GET_EXPONENT gives, as a signed 32-bit value, the biased exponent (ROM_EXP[COMB] << 6) | ECONT
minus 101, narrowed to 8 bits. W is not written. -/
def Obligations.GetExponentResult : Prop :=
  ∀ s : State, ∃ d : Word, exec .getExponent s = .next { s with dout := d, status := 0#3 } ∧
    d.toInt = wrapExp ((64 * (romExpAt s.romExp (combOf s.w)).toNat + econtN s.w : Nat) - 101)

/-- R132: inside the window SET_EXPONENT writes COMB and ECONT from the biased exponent and the existing MSD
ROM_DIG[COMB] and keeps the sign and CCONT; outside it, EXP_TOO_LARGE or EXP_TOO_SMALL, W unchanged. The field is
stated for an MSD in 0..9, the domain of ENC_COMB (R103) and all the digits the tables hold (R25). -/
def Obligations.SetExponentResult : Prop :=
  ∀ (e : BitVec 8) (s : State),
    (-95 ≤ e.toInt → e.toInt ≤ 96 → ∃ v : Word,
      exec (.setExponent e) s = .next { s with w := v, dout := v, status := 0#3 } ∧
      signN v = signN s.w ∧ ccontN v = ccontN s.w ∧
      (econtN v : Int) = (e.toInt + 101) % 64 ∧
      ((romDigAt s.romDig (combOf s.w)).toNat ≤ 9 →
        combN v = encN ((e.toInt + 101) / 64).toNat (romDigAt s.romDig (combOf s.w)).toNat)) ∧
    (96 < e.toInt → exec (.setExponent e) s = .next { s with dout := 0#32, status := 1#3 }) ∧
    (e.toInt < -95 → exec (.setExponent e) s = .next { s with dout := 0#32, status := 2#3 })

/-- R132 corner (b): for e in -95..90 the exponent reads back as e and the coefficient reads back unchanged. -/
def Obligations.SetExponentRoundTrips : Prop :=
  ∀ (e : BitVec 8) (s : State), RomsAsSpecified s → -95 ≤ e.toInt → e.toInt ≤ 90 →
    ∃ t u c c' : State, exec (.setExponent e) s = .next t ∧
      exec .getExponent t = .next u ∧ u.dout.toInt = e.toInt ∧
      exec .getCoefficient s = .next c ∧ exec .getCoefficient t = .next c' ∧ c'.dout = c.dout

/-- R132 corner (c): for e in 91..96 the round trip holds when the MSD is 8 or 9; with an MSD d in 0..7 the
exponent reads back as e - 192 + 64 * (24 + d)[2:1] and the MSD as 8 + (d & 1). -/
def Obligations.SetExponentTopOfWindow : Prop :=
  ∀ (e : BitVec 8) (s : State), RomsAsSpecified s → 91 ≤ e.toInt → e.toInt ≤ 96 →
    ∃ t u c c' : State, exec (.setExponent e) s = .next t ∧
      exec .getExponent t = .next u ∧
      exec .getCoefficient s = .next c ∧ exec .getCoefficient t = .next c' ∧
      (8 ≤ digN (combN s.w) → u.dout.toInt = e.toInt ∧ c'.dout = c.dout) ∧
      (digN (combN s.w) ≤ 7 →
        u.dout.toInt = e.toInt - 192 + 64 * ((24 + digN (combN s.w)) / 2 % 4 : Nat) ∧
        c'.dout.toNat + 1000000 * digN (combN s.w) =
          c.dout.toNat + 1000000 * (8 + digN (combN s.w) % 2))

/-! ### Coefficient -/

/-- R145 and R147: GET_COEFFICIENT gives msd * 10^6 + value(upper declet) * 1000 + value(lower declet), with
msd = ROM_DIG[COMB]. W is not written. -/
def Obligations.GetCoefficientResult : Prop :=
  ∀ s : State, ∃ d : Word, exec .getCoefficient s = .next { s with dout := d, status := 0#3 } ∧
    d.toNat = 1000000 * (romDigAt s.romDig (combOf s.w)).toNat
      + 1000 * val3 (BitVec.ofNat 10 (upperN s.w)) + val3 (BitVec.ofNat 10 (lowerN s.w))

/-- R146: the coefficient read from any word lies in 0..9,999,999. -/
def Obligations.CoefficientIsInRange : Prop :=
  ∀ s : State, RomsAsSpecified s →
    ∃ d : Word, exec .getCoefficient s = .next { s with dout := d, status := 0#3 } ∧ d.toNat ≤ 9999999

/-- R149 with R148: SET_COEFFICIENT writes COMB from the existing exp MSB ROM_EXP[COMB] and the new MSD, and two
canonical declets, and keeps the sign and ECONT; above 9,999,999 it raises COEFF_OUT_OF_RANGE, W unchanged. -/
def Obligations.SetCoefficientResult : Prop :=
  ∀ (c : Word) (s : State),
    (c.toNat ≤ 9999999 → ∃ v : Word,
      exec (.setCoefficient c) s = .next { s with w := v, dout := v, status := 0#3 } ∧
      signN v = signN s.w ∧ econtN v = econtN s.w ∧
      combN v = encN (romExpAt s.romExp (combOf s.w)).toNat (c.toNat / 1000000) ∧
      upperN v = (dpdEnc (c.toNat / 1000 % 1000)).toNat ∧ lowerN v = (dpdEnc (c.toNat % 1000)).toNat) ∧
    (9999999 < c.toNat → exec (.setCoefficient c) s = .next { s with dout := 0#32, status := 3#3 })

/-- R149 corner (b): with the existing field in 0..29 the coefficient reads back as c and the exponent reads back
unchanged. -/
def Obligations.SetCoefficientRoundTrips : Prop :=
  ∀ (c : Word) (s : State), RomsAsSpecified s → combN s.w ≤ 29 → c.toNat ≤ 9999999 →
    ∃ t u e e' : State, exec (.setCoefficient c) s = .next t ∧
      exec .getCoefficient t = .next u ∧ u.dout = c ∧
      exec .getExponent s = .next e ∧ exec .getExponent t = .next e' ∧ e'.dout = e.dout

/-- R149 corner (c): with the existing field 30 or 31 the round trip holds for an MSD of 8 or 9; with an MSD m in
0..7 the MSD reads back as 8 + (m & 1) and the exponent as EXP_OF with exp MSB (24 + m)[2:1]. -/
def Obligations.SetCoefficientOnTopFields : Prop :=
  ∀ (c : Word) (s : State), RomsAsSpecified s → 30 ≤ combN s.w → c.toNat ≤ 9999999 →
    ∃ t u e e' : State, exec (.setCoefficient c) s = .next t ∧
      exec .getCoefficient t = .next u ∧
      exec .getExponent s = .next e ∧ exec .getExponent t = .next e' ∧
      (8000000 ≤ c.toNat → u.dout = c ∧ e'.dout = e.dout) ∧
      (c.toNat < 8000000 →
        u.dout.toNat = 1000000 * (8 + c.toNat / 1000000 % 2) + c.toNat % 1000000 ∧
        e'.dout.toInt =
          wrapExp ((64 * ((24 + c.toNat / 1000000) / 2 % 4) + econtN s.w : Nat) - 101))

/-! ### Construction -/

/-- R160, R161, R162: NEW writes 0x6000_0000, LOAD_RAW writes its operand, READ_RAW reads W. -/
def Obligations.WholeWordCommandResults : Prop :=
  ∀ s : State,
    exec .new s = .next { s with w := 0x60000000#32, dout := 0x60000000#32, status := 0#3 } ∧
    (∀ bits : Word, exec (.loadRaw bits) s = .next { s with w := bits, dout := bits, status := 0#3 }) ∧
    exec .readRaw s = .next { s with dout := s.w, status := 0#3 }

/-- R164 to R169: each FROM_ command writes FROM_INT(v) and reports it; above 9,999,999 FROM_U32 raises
COEFF_OUT_OF_RANGE and FROM_U32_CHECKED raises NO_VALUE, W unchanged. -/
def Obligations.FromIntegerResults : Prop :=
  ∀ s : State,
    (∀ v : BitVec 8, ∃ x : Word,
      exec (.fromU8 v) s = .next { s with w := x, dout := x, status := 0#3 } ∧ IsFromInt s.romExp v.toNat x) ∧
    (∀ v : BitVec 16, ∃ x : Word,
      exec (.fromU16 v) s = .next { s with w := x, dout := x, status := 0#3 } ∧ IsFromInt s.romExp v.toNat x) ∧
    (∀ v : Word, v.toNat ≤ 9999999 → ∃ x : Word,
      exec (.fromU32 v) s = .next { s with w := x, dout := x, status := 0#3 } ∧ IsFromInt s.romExp v.toNat x) ∧
    (∀ v : BitVec 8, ∃ x : Word,
      exec (.fromU8Checked v) s = .next { s with w := x, dout := x, status := 0#3 } ∧ IsFromInt s.romExp v.toNat x) ∧
    (∀ v : BitVec 16, ∃ x : Word,
      exec (.fromU16Checked v) s = .next { s with w := x, dout := x, status := 0#3 } ∧ IsFromInt s.romExp v.toNat x) ∧
    (∀ v : Word, v.toNat ≤ 9999999 → ∃ x : Word,
      exec (.fromU32Checked v) s = .next { s with w := x, dout := x, status := 0#3 } ∧ IsFromInt s.romExp v.toNat x) ∧
    (∀ v : Word, 9999999 < v.toNat →
      exec (.fromU32 v) s = .next { s with dout := 0#32, status := 3#3 } ∧
      exec (.fromU32Checked v) s = .next { s with dout := 0#32, status := 4#3 })

/-- R163: a value built from an integer v reads back with coefficient v, exponent -101 and a positive sign,
whatever W held. -/
def Obligations.FromIntegerReadsBack : Prop :=
  ∀ (v : Word) (s : State), RomsAsSpecified s → v.toNat ≤ 9999999 →
    ∃ t c e p : State, exec (.fromU32 v) s = .next t ∧
      exec .getCoefficient t = .next c ∧ c.dout = v ∧
      exec .getExponent t = .next e ∧ e.dout.toInt = -101 ∧
      exec .isSignPositive t = .next p ∧ p.dout = 1#32

/-- R167 to R169: a checked conversion that loses nothing has the effect of the unchecked one, on every state. -/
def Obligations.CheckedConversionsAgree : Prop :=
  ∀ s : State,
    (∀ v : BitVec 8, exec (.fromU8Checked v) s = exec (.fromU8 v) s) ∧
    (∀ v : BitVec 16, exec (.fromU16Checked v) s = exec (.fromU16 v) s) ∧
    (∀ v : Word, v.toNat ≤ 9999999 → exec (.fromU32Checked v) s = exec (.fromU32 v) s)

/-! ### The representation as a whole -/

/-- Every sign, exponent in -95..90 and coefficient in 0..9,999,999 can be built by three commands from any state,
and reads back exactly (R163, R132 (b), R149 (b), R116). -/
def Obligations.EveryValueCanBeBuiltAndRead : Prop :=
  ∀ (s : State) (b : Bool) (e : BitVec 8) (c : Word), RomsAsSpecified s →
    -95 ≤ e.toInt → e.toInt ≤ 90 → c.toNat ≤ 9999999 →
    ∃ t₁ t₂ t₃ rs re rc : State,
      exec (.fromU32 c) s = .next t₁ ∧ exec (.setExponent e) t₁ = .next t₂ ∧
      exec (.setSign b) t₂ = .next t₃ ∧
      exec .getSign t₃ = .next rs ∧ rs.dout.toNat = b.toNat ∧
      exec .getExponent t₃ = .next re ∧ re.dout.toInt = e.toInt ∧
      exec .getCoefficient t₃ = .next rc ∧ rc.dout = c

/-- A word with field 0..29, canonical declets and an exponent the setter accepts is determined by what the three
reads report of it: building those values again gives the same word (R84, R116, R132 (b), R145, R163). -/
def Obligations.ReadingsDetermineCanonicalWord : Prop :=
  ∀ s : State, RomsAsSpecified s → combN s.w ≤ 29 → 6 ≤ biasedN s.w →
    dpdEnc (val3 (upperDecletOf s.w)) = upperDecletOf s.w →
    dpdEnc (val3 (lowerDecletOf s.w)) = lowerDecletOf s.w →
    ∃ rs re rc t₁ t₂ t₃ : State,
      exec .getSign s = .next rs ∧ exec .getExponent s = .next re ∧ exec .getCoefficient s = .next rc ∧
      exec (.fromU32 rc.dout) s = .next t₁ ∧
      exec (.setExponent (BitVec.ofInt 8 re.dout.toInt)) t₁ = .next t₂ ∧
      exec (.setSign (decide (rs.dout = 1#32))) t₂ = .next t₃ ∧
      t₃.w = s.w
end

