-- ==== Sys2Proof/Laws/Checks.lean ====
section
/-!
SUPPORT. When each check of Machine/Flags.lean raises and when it passes, with the bounds written out
(60_exceptions.md R187, 00_scope.md R6).
-/

namespace Sys2Proof.Machine

theorem digitCountError_zero : digitCountError 0#2 = some .badCommand := rfl

theorem digitCountError_pos {n : BitVec 2} (h : n ≠ 0#2) : digitCountError n = none := if_neg h

theorem packError_zero (value : BitVec 10) : packError 0#2 value = some .badCommand := rfl

theorem packError_ge {n : BitVec 2} {value : BitVec 10} (hn : n ≠ 0#2) (h : 10 ^ n.toNat ≤ value.toNat) :
    packError n value = some .badOperand := (if_neg hn).trans (if_pos h)

theorem packError_lt {n : BitVec 2} {value : BitVec 10} (hn : n ≠ 0#2) (h : value.toNat < 10 ^ n.toNat) :
    packError n value = none := (if_neg hn).trans (if_neg (Nat.not_le.2 h))

theorem combDigitError_gt {d : BitVec 4} (h : 9 < d.toNat) : combDigitError d = some .badOperand := if_pos h

theorem combDigitError_le {d : BitVec 4} (h : d.toNat ≤ 9) : combDigitError d = none := if_neg (Nat.not_lt.2 h)

theorem exponentError_gt {e : Int} (h : 96 < e) : exponentError e = some .expTooLarge := if_pos h

theorem exponentError_lt {e : Int} (h : e < -95) : exponentError e = some .expTooSmall :=
  (if_neg (by simp only [Config.expSetMax]; omega)).trans (if_pos h)

theorem exponentError_window {e : Int} (hl : -95 ≤ e) (hu : e ≤ 96) : exponentError e = none :=
  (if_neg (Int.not_lt.2 hu)).trans (if_neg (Int.not_lt.2 hl))

theorem coefficientError_gt {c : Nat} (h : 9999999 < c) : coefficientError c = some .coeffOutOfRange := if_pos h

theorem coefficientError_le {c : Nat} (h : c ≤ 9999999) : coefficientError c = none := if_neg (Nat.not_lt.2 h)

theorem conversionError_gt {v : Nat} (h : 9999999 < v) : conversionError v = some .noValue := if_pos h

theorem conversionError_le {v : Nat} (h : v ≤ 9999999) : conversionError v = none := if_neg (Nat.not_lt.2 h)

end Sys2Proof.Machine
end

