-- ==== Sys2Proof/Laws/Fields.lean ====
section
/-!
SUPPORT. The fields of W: each masked write changes the fields it names and no other (10_state.md R31), reading a
field by division and remainder is reading its bits, and the four fields determine the word.
-/

namespace Sys2Proof.Machine

open Sys2Proof.Safety

/-! ### Fields as numbers -/

theorem signOf_toNat (w : Word) : (signOf w).toNat = signN w := by
  have h := w.isLt
  simp only [signOf, signN, BitVec.getLsbD, Nat.testBit_eq_decide_div_mod_eq]
  by_cases hw : w.toNat / 2 ^ 31 % 2 = 1 <;> simp only [hw, decide_true, decide_false, Bool.toNat_true,
    Bool.toNat_false] <;> omega

theorem combOf_toNat (w : Word) : (combOf w).toNat = combN w := by
  simp only [combOf, combN, BitVec.extractLsb'_toNat, Nat.shiftRight_eq_div_pow]

theorem econtOf_toNat (w : Word) : (econtOf w).toNat = econtN w := by
  simp only [econtOf, econtN, BitVec.extractLsb'_toNat, Nat.shiftRight_eq_div_pow]

theorem ccontOf_toNat (w : Word) : (ccontOf w).toNat = ccontN w := by
  simp only [ccontOf, ccontN, BitVec.extractLsb'_toNat, Nat.shiftRight_eq_div_pow]; omega

theorem upperDecletOf_toNat (w : Word) : (upperDecletOf w).toNat = upperN w := by
  simp only [upperDecletOf, upperN, BitVec.extractLsb'_toNat, Nat.shiftRight_eq_div_pow]

theorem lowerDecletOf_toNat (w : Word) : (lowerDecletOf w).toNat = lowerN w := by
  simp only [lowerDecletOf, lowerN, BitVec.extractLsb'_toNat, Nat.shiftRight_eq_div_pow]; omega

/-! ### Bits of a masked write -/

/-- The three masks R116, R132 and R149 keep a word by, bit by bit. -/
theorem getLsbD_masks : ∀ k < 32,
    (0x7FFFFFFF#32).getLsbD k = decide (k ≠ 31) ∧
      (0x800FFFFF#32).getLsbD k = decide (k < 20 ∨ 31 ≤ k) ∧
      (0x83F00000#32).getLsbD k = decide ((20 ≤ k ∧ k < 26) ∨ 31 ≤ k) := by decide

theorem getLsbD_withSign (w : Word) (b : Bool) (k : Nat) :
    (withSign w b).getLsbD k = if k = 31 then b else w.getLsbD k := by
  by_cases hk : k < 32
  · simp only [withSign, zext32, BitVec.getLsbD_or, BitVec.getLsbD_and, BitVec.getLsbD_shiftLeft,
      BitVec.getLsbD_setWidth, (getLsbD_masks k hk).1]
    by_cases h : k = 31
    · subst h; simp
    · simp [h, show k < 31 by omega]
  · have h32 : 32 ≤ k := by omega
    simp [BitVec.getLsbD_of_ge _ _ h32, show k ≠ 31 by omega]

theorem getLsbD_withCombEcont (w : Word) (f : BitVec 5) (cont : BitVec 6) (k : Nat) :
    (withCombEcont w f cont).getLsbD k =
      if k < 20 then w.getLsbD k else if k < 26 then cont.getLsbD (k - 20)
      else if k < 31 then f.getLsbD (k - 26) else w.getLsbD k := by
  by_cases hk : k < 32
  · simp only [withCombEcont, zext32, BitVec.getLsbD_or, BitVec.getLsbD_and, BitVec.getLsbD_shiftLeft,
      BitVec.getLsbD_setWidth, (getLsbD_masks k hk).2.1]
    have hf : 31 ≤ k → f.getLsbD (k - 26) = false := fun h => BitVec.getLsbD_of_ge _ _ (by omega)
    have hcont : 26 ≤ k → cont.getLsbD (k - 20) = false := fun h => BitVec.getLsbD_of_ge _ _ (by omega)
    rcases Nat.lt_or_ge k 20 with h1 | h1
    · simp [h1, hk, show k < 26 by omega]
    rcases Nat.lt_or_ge k 26 with h2 | h2
    · simp [hk, h2, show ¬ k < 20 by omega, show ¬ 31 ≤ k by omega, show k - 20 < 32 by omega]
    rcases Nat.lt_or_ge k 31 with h3 | h3
    · simp [hk, h3, hcont h2, show ¬ k < 20 by omega, show ¬ k < 26 by omega, show ¬ 31 ≤ k by omega,
        show k - 26 < 32 by omega]
    · simp [h3, hf h3, hcont h2, show ¬ k < 20 by omega, show ¬ k < 26 by omega, show ¬ k < 31 by omega]
  · have h32 : 32 ≤ k := by omega
    simp [BitVec.getLsbD_of_ge _ _ h32, show ¬ k < 20 by omega, show ¬ k < 26 by omega,
      show ¬ k < 31 by omega]

theorem getLsbD_withCombCcont (w : Word) (f : BitVec 5) (ccont : BitVec 20) (k : Nat) :
    (withCombCcont w f ccont).getLsbD k =
      if k < 20 then ccont.getLsbD k else if k < 26 then w.getLsbD k
      else if k < 31 then f.getLsbD (k - 26) else w.getLsbD k := by
  by_cases hk : k < 32
  · simp only [withCombCcont, zext32, BitVec.getLsbD_or, BitVec.getLsbD_and, BitVec.getLsbD_shiftLeft,
      BitVec.getLsbD_setWidth, (getLsbD_masks k hk).2.2]
    have hf : 31 ≤ k → f.getLsbD (k - 26) = false := fun h => BitVec.getLsbD_of_ge _ _ (by omega)
    have hccont : 20 ≤ k → ccont.getLsbD k = false := fun h => BitVec.getLsbD_of_ge _ _ (by omega)
    rcases Nat.lt_or_ge k 20 with h1 | h1
    · simp [h1, hk, show k < 26 by omega, show ¬ 20 ≤ k by omega, show ¬ 31 ≤ k by omega]
    rcases Nat.lt_or_ge k 26 with h2 | h2
    · simp [h1, h2, show ¬ k < 20 by omega]
    rcases Nat.lt_or_ge k 31 with h3 | h3
    · simp [hk, h3, hccont h1, show ¬ k < 20 by omega, show ¬ k < 26 by omega, show ¬ 31 ≤ k by omega,
        show k - 26 < 32 by omega]
    · simp [h3, hf h3, hccont h1, show ¬ k < 20 by omega, show ¬ k < 26 by omega, show ¬ k < 31 by omega]
  · have h32 : 32 ≤ k := by omega
    simp [BitVec.getLsbD_of_ge _ _ h32, show ¬ k < 20 by omega, show ¬ k < 26 by omega,
      show ¬ k < 31 by omega]

/-! ### Fields after a masked write -/

@[simp] theorem signOf_withSign (w : Word) (b : Bool) : signOf (withSign w b) = b := by
  simp only [signOf, getLsbD_withSign]; rfl

@[simp] theorem combOf_withSign (w : Word) (b : Bool) : combOf (withSign w b) = combOf w := by
  apply BitVec.eq_of_getLsbD_eq
  intro k hk
  simp only [combOf, BitVec.getLsbD_extractLsb', getLsbD_withSign]
  simp [show ¬ 26 + k = 31 by omega]

@[simp] theorem econtOf_withSign (w : Word) (b : Bool) : econtOf (withSign w b) = econtOf w := by
  apply BitVec.eq_of_getLsbD_eq
  intro k hk
  simp only [econtOf, BitVec.getLsbD_extractLsb', getLsbD_withSign]
  simp [show ¬ 20 + k = 31 by omega]

@[simp] theorem ccontOf_withSign (w : Word) (b : Bool) : ccontOf (withSign w b) = ccontOf w := by
  apply BitVec.eq_of_getLsbD_eq
  intro k hk
  simp only [ccontOf, BitVec.getLsbD_extractLsb', getLsbD_withSign]
  simp [show ¬ k = 31 by omega]

@[simp] theorem signOf_withCombEcont (w : Word) (f : BitVec 5) (cont : BitVec 6) :
    signOf (withCombEcont w f cont) = signOf w := by
  simp only [signOf, getLsbD_withCombEcont]; rfl

@[simp] theorem combOf_withCombEcont (w : Word) (f : BitVec 5) (cont : BitVec 6) :
    combOf (withCombEcont w f cont) = f := by
  apply BitVec.eq_of_getLsbD_eq
  intro k hk
  simp only [combOf, BitVec.getLsbD_extractLsb', getLsbD_withCombEcont]
  simp [hk, show 26 + k < 31 by omega, show ¬ 26 + k < 20 by omega]

@[simp] theorem econtOf_withCombEcont (w : Word) (f : BitVec 5) (cont : BitVec 6) :
    econtOf (withCombEcont w f cont) = cont := by
  apply BitVec.eq_of_getLsbD_eq
  intro k hk
  simp only [econtOf, BitVec.getLsbD_extractLsb', getLsbD_withCombEcont]
  simp [hk, show 20 + k < 26 by omega]

@[simp] theorem ccontOf_withCombEcont (w : Word) (f : BitVec 5) (cont : BitVec 6) :
    ccontOf (withCombEcont w f cont) = ccontOf w := by
  apply BitVec.eq_of_getLsbD_eq
  intro k hk
  simp only [ccontOf, BitVec.getLsbD_extractLsb', getLsbD_withCombEcont]
  simp [hk]

@[simp] theorem signOf_withCombCcont (w : Word) (f : BitVec 5) (ccont : BitVec 20) :
    signOf (withCombCcont w f ccont) = signOf w := by
  simp only [signOf, getLsbD_withCombCcont]; rfl

@[simp] theorem combOf_withCombCcont (w : Word) (f : BitVec 5) (ccont : BitVec 20) :
    combOf (withCombCcont w f ccont) = f := by
  apply BitVec.eq_of_getLsbD_eq
  intro k hk
  simp only [combOf, BitVec.getLsbD_extractLsb', getLsbD_withCombCcont]
  simp [hk, show 26 + k < 31 by omega, show ¬ 26 + k < 20 by omega]

@[simp] theorem econtOf_withCombCcont (w : Word) (f : BitVec 5) (ccont : BitVec 20) :
    econtOf (withCombCcont w f ccont) = econtOf w := by
  apply BitVec.eq_of_getLsbD_eq
  intro k hk
  simp only [econtOf, BitVec.getLsbD_extractLsb', getLsbD_withCombCcont]
  simp [show 20 + k < 26 by omega]

@[simp] theorem ccontOf_withCombCcont (w : Word) (f : BitVec 5) (ccont : BitVec 20) :
    ccontOf (withCombCcont w f ccont) = ccont := by
  apply BitVec.eq_of_getLsbD_eq
  intro k hk
  simp only [ccontOf, BitVec.getLsbD_extractLsb', getLsbD_withCombCcont]
  simp [hk]

/-! ### The declets of CCONT, and equality of words by fields -/

theorem upperDecletOf_eq (w : Word) : upperDecletOf w = (ccontOf w).extractLsb' 10 10 := by
  apply BitVec.eq_of_getLsbD_eq
  intro k hk
  simp [upperDecletOf, ccontOf]

theorem lowerDecletOf_eq (w : Word) : lowerDecletOf w = (ccontOf w).extractLsb' 0 10 := by
  apply BitVec.eq_of_getLsbD_eq
  intro k hk
  simp [lowerDecletOf, ccontOf]

/-- The two declets of the continuation `(hi << 10) | lo`. -/
theorem declets_of_append (hi lo : Declet) :
    ((hi.setWidth 20 <<< 10) ||| lo.setWidth 20).extractLsb' 10 10 = hi ∧
      ((hi.setWidth 20 <<< 10) ||| lo.setWidth 20).extractLsb' 0 10 = lo := by
  constructor <;> apply BitVec.eq_of_getLsbD_eq <;> intro k hk <;>
    simp only [BitVec.getLsbD_extractLsb', BitVec.getLsbD_or, BitVec.getLsbD_shiftLeft,
      BitVec.getLsbD_setWidth] <;> interval_cases k <;> simp

theorem upperDecletOf_withCombCcont (w : Word) (f : BitVec 5) (ccont : BitVec 20) :
    upperDecletOf (withCombCcont w f ccont) = ccont.extractLsb' 10 10 := by
  rw [upperDecletOf_eq, ccontOf_withCombCcont]

theorem lowerDecletOf_withCombCcont (w : Word) (f : BitVec 5) (ccont : BitVec 20) :
    lowerDecletOf (withCombCcont w f ccont) = ccont.extractLsb' 0 10 := by
  rw [lowerDecletOf_eq, ccontOf_withCombCcont]

/-- The four fields of R22 cover the word. -/
theorem word_eq_of_fields {v w : Word} (hs : signN v = signN w) (hc : combN v = combN w)
    (he : econtN v = econtN w) (ht : ccontN v = ccontN w) : v = w := by
  apply BitVec.eq_of_toNat_eq
  have := v.isLt
  have := w.isLt
  simp only [signN, combN, econtN, ccontN] at *
  omega

end Sys2Proof.Machine
end

