-- ==== Sys2Proof/Laws/Codec.lean ====
section
/-!
SUPPORT. The codec's bit operations as arithmetic: widening, the encoder of the combination field, and the biased
exponent.
-/

namespace Sys2Proof.Machine

open Sys2Proof.Safety

/-- An integer that fits is the number in DOUT. -/
theorem natWord_toNat {v : Nat} (h : v < 2 ^ 32) : (natWord v).toNat = v := by
  rw [natWord, BitVec.toNat_ofNat, Nat.mod_eq_of_lt h]

@[simp] theorem zext32_ofBool_toNat (b : Bool) : (zext32 (BitVec.ofBool b)).toNat = b.toNat := by
  cases b <;> rfl

/-- ENC_COMB as arithmetic (R103). -/
theorem encComb_toNat : ∀ (m : BitVec 2) (d : BitVec 4),
    (encComb m d).toNat = encN m.toNat d.toNat := by decide

/-- The exp MSB and the digit that the tables' formulas give back for an encoded pair (R103's law). -/
theorem msbN_digN_encN : ∀ m < 4, ∀ d < 10, (m ≤ 2 ∨ 8 ≤ d) →
    msbN (encN m d) = m ∧ digN (encN m d) = d := by decide

/-- ... and for exp MSB 3 with a digit in 0..7 (R103's law). -/
theorem msbN_digN_encN_three : ∀ d < 8,
    msbN (encN 3 d) = (24 + d) / 2 % 4 ∧ digN (encN 3 d) = 8 + d % 2 := by decide

/-- Every field is the encoding of what the tables' formulas give for it. -/
theorem encN_msbN_digN : ∀ f < 32, encN (msbN f) (digN f) = f := by decide

/-- `(msb << 6) | cont` as arithmetic (R130). -/
theorem biased_toNat : ∀ (m : BitVec 2) (cont : BitVec 6),
    ((m.setWidth 8 <<< 6) ||| cont.setWidth 8).toNat = 64 * m.toNat + cont.toNat := by decide

/-- The upper and lower declets by CCONT as a number. -/
theorem upperN_eq (w : Word) : upperN w = ccontN w / 1024 := by
  unfold upperN ccontN; omega

theorem lowerN_eq (w : Word) : lowerN w = ccontN w % 1024 := by
  unfold lowerN ccontN; omega

end Sys2Proof.Machine
end

