-- ==== Sys2Proof/Laws/Command.lean ====
section
/-!
SUPPORT. The fields of a command word: reading a field of the word `mkCommand` builds gives the field back, and
reading a field by division and remainder is reading its bits.
-/

namespace Sys2Proof

open Sys2Proof.Safety

@[simp] theorem opOf_mkCommand (op : BitVec 5) (sel : BitVec 2) (b : Bool) (a : Word) :
    opOf (mkCommand op sel b a) = op := by
  apply BitVec.eq_of_getLsbD_eq
  intro k hk
  simp only [opOf, mkCommand, BitVec.getLsbD_extractLsb', BitVec.getLsbD_or, BitVec.getLsbD_shiftLeft,
    BitVec.getLsbD_setWidth]
  interval_cases k <;> simp

@[simp] theorem selOf_mkCommand (op : BitVec 5) (sel : BitVec 2) (b : Bool) (a : Word) :
    selOf (mkCommand op sel b a) = sel := by
  apply BitVec.eq_of_getLsbD_eq
  intro k hk
  simp only [selOf, mkCommand, BitVec.getLsbD_extractLsb', BitVec.getLsbD_or, BitVec.getLsbD_shiftLeft,
    BitVec.getLsbD_setWidth]
  interval_cases k <;> simp

@[simp] theorem bOf_mkCommand (op : BitVec 5) (sel : BitVec 2) (b : Bool) (a : Word) :
    bOf (mkCommand op sel b a) = b := by
  simp [bOf, mkCommand]

@[simp] theorem aOf_mkCommand (op : BitVec 5) (sel : BitVec 2) (b : Bool) (a : Word) :
    aOf (mkCommand op sel b a) = a := by
  apply BitVec.eq_of_getLsbD_eq
  intro k hk
  simp only [aOf, mkCommand, BitVec.getLsbD_extractLsb', BitVec.getLsbD_or, BitVec.getLsbD_shiftLeft,
    BitVec.getLsbD_setWidth]
  simp [hk, show k < 40 by omega, show k < 35 by omega, show k < 33 by omega]

@[simp] theorem mkCommand_fields (c : Command) : mkCommand (opOf c) (selOf c) (bOf c) (aOf c) = c := by
  apply BitVec.eq_of_getLsbD_eq
  intro k hk
  simp only [opOf, selOf, bOf, aOf, mkCommand, BitVec.getLsbD_extractLsb', BitVec.getLsbD_or,
    BitVec.getLsbD_shiftLeft, BitVec.getLsbD_setWidth]
  interval_cases k <;> simp

theorem opOf_toNat (c : Command) : (opOf c).toNat = opN c := by
  have := c.isLt
  simp only [opOf, opN, BitVec.extractLsb'_toNat, Nat.shiftRight_eq_div_pow]
  omega

theorem selOf_toNat (c : Command) : (selOf c).toNat = selN c := by
  simp only [selOf, selN, BitVec.extractLsb'_toNat, Nat.shiftRight_eq_div_pow]

theorem aOf_toNat (c : Command) : (aOf c).toNat = c.toNat % 2 ^ 32 := by
  simp only [aOf, BitVec.extractLsb'_toNat, Nat.shiftRight_eq_div_pow]
  omega

theorem bOf_eq (c : Command) : bOf c = decide (c.toNat / 2 ^ 32 % 2 = 1) := by
  simp [bOf, BitVec.getLsbD, Nat.testBit_eq_decide_div_mod_eq]

/-- Decoding a word built from its fields is decoding the fields. -/
@[simp] theorem decode_mkCommand (op : BitVec 5) (sel : BitVec 2) (b : Bool) (a : Word) :
    decode (mkCommand op sel b a) = decodeFields op sel b a := by
  simp [decode]

end Sys2Proof
end

