-- ==== Sys2Proof/Laws/State.lean ====
section
/-!
SUPPORT. One lemma per field and state update of Machine/Ops.lean, so that no proof unfolds a record update.
-/

namespace Sys2Proof.Machine

@[simp] theorem complete_w (d : Word) (s : State) : (complete d s).w = s.w := rfl
@[simp] theorem complete_dout (d : Word) (s : State) : (complete d s).dout = d := rfl
@[simp] theorem complete_status (d : Word) (s : State) : (complete d s).status = 0#3 := rfl
@[simp] theorem complete_romExp (d : Word) (s : State) : (complete d s).romExp = s.romExp := rfl
@[simp] theorem complete_romDig (d : Word) (s : State) : (complete d s).romDig = s.romDig := rfl
@[simp] theorem complete_inputs (d : Word) (s : State) : (complete d s).inputs = s.inputs := rfl

@[simp] theorem writeWord_w (v : Word) (s : State) : (writeWord v s).w = v := rfl
@[simp] theorem writeWord_dout (v : Word) (s : State) : (writeWord v s).dout = v := rfl
@[simp] theorem writeWord_status (v : Word) (s : State) : (writeWord v s).status = 0#3 := rfl
@[simp] theorem writeWord_romExp (v : Word) (s : State) : (writeWord v s).romExp = s.romExp := rfl
@[simp] theorem writeWord_romDig (v : Word) (s : State) : (writeWord v s).romDig = s.romDig := rfl
@[simp] theorem writeWord_inputs (v : Word) (s : State) : (writeWord v s).inputs = s.inputs := rfl

@[simp] theorem raise_w (st : Status) (s : State) : (raise st s).w = s.w := rfl
@[simp] theorem raise_dout (st : Status) (s : State) : (raise st s).dout = 0#32 := rfl
@[simp] theorem raise_status (st : Status) (s : State) : (raise st s).status = statusCode st := rfl
@[simp] theorem raise_romExp (st : Status) (s : State) : (raise st s).romExp = s.romExp := rfl
@[simp] theorem raise_romDig (st : Status) (s : State) : (raise st s).romDig = s.romDig := rfl
@[simp] theorem raise_inputs (st : Status) (s : State) : (raise st s).inputs = s.inputs := rfl

@[simp] theorem resetBlock_w (s : State) : (resetBlock s).w = Config.resetWord := rfl
@[simp] theorem resetBlock_dout (s : State) : (resetBlock s).dout = 0#32 := rfl
@[simp] theorem resetBlock_status (s : State) : (resetBlock s).status = 0#3 := rfl
@[simp] theorem resetBlock_romExp (s : State) : (resetBlock s).romExp = s.romExp := rfl
@[simp] theorem resetBlock_romDig (s : State) : (resetBlock s).romDig = s.romDig := rfl
@[simp] theorem resetBlock_inputs (s : State) : (resetBlock s).inputs = s.inputs := rfl

@[simp] theorem presentCommand_w (s : State) (c : Command) : (presentCommand s c).w = s.w := rfl
@[simp] theorem presentCommand_dout (s : State) (c : Command) : (presentCommand s c).dout = s.dout := rfl
@[simp] theorem presentCommand_status (s : State) (c : Command) : (presentCommand s c).status = s.status := rfl
@[simp] theorem presentCommand_romExp (s : State) (c : Command) : (presentCommand s c).romExp = s.romExp := rfl
@[simp] theorem presentCommand_romDig (s : State) (c : Command) : (presentCommand s c).romDig = s.romDig := rfl
@[simp] theorem presentCommand_inputs (s : State) (c : Command) :
    (presentCommand s c).inputs = { rst := false, cmd := c } :: s.inputs.tail := rfl

end Sys2Proof.Machine
end

