-- ==== Sys2Proof/Laws/Exec.lean ====
section
/-!
SUPPORT. The arms of `exec`, and what the shared operations, a command and a step can do, said once.
-/

namespace Sys2Proof.Machine

open Sys2Proof.Safety

/-! ### The arms of exec -/

@[simp] theorem exec_dpdUnpack (n : BitVec 2) (packed : Declet) (s : State) :
    exec (.dpdUnpack n packed) s = execDpdUnpack n packed s := rfl
@[simp] theorem exec_dpdPack (n : BitVec 2) (value : BitVec 10) (s : State) :
    exec (.dpdPack n value) s = execDpdPack n value s := rfl
@[simp] theorem exec_combEncode (m : BitVec 2) (d : BitVec 4) (s : State) :
    exec (.combEncode m d) s = execCombEncode m d s := rfl
@[simp] theorem exec_combDecode (f : BitVec 5) (s : State) :
    exec (.combDecode f) s = execCombDecode f s := rfl
@[simp] theorem exec_getSign (s : State) : exec .getSign s = execGetSign s := rfl
@[simp] theorem exec_setSign (negative : Bool) (s : State) :
    exec (.setSign negative) s = execSetSign negative s := rfl
@[simp] theorem exec_isSignPositive (s : State) : exec .isSignPositive s = execIsSignPositive s := rfl
@[simp] theorem exec_isSignNegative (s : State) : exec .isSignNegative s = execIsSignNegative s := rfl
@[simp] theorem exec_setSignPositive (s : State) : exec .setSignPositive s = execSetSignPositive s := rfl
@[simp] theorem exec_setSignNegative (s : State) : exec .setSignNegative s = execSetSignNegative s := rfl
@[simp] theorem exec_getExponent (s : State) : exec .getExponent s = execGetExponent s := rfl
@[simp] theorem exec_setExponent (e : BitVec 8) (s : State) :
    exec (.setExponent e) s = execSetExponent e s := rfl
@[simp] theorem exec_getCoefficient (s : State) : exec .getCoefficient s = execGetCoefficient s := rfl
@[simp] theorem exec_setCoefficient (c : Word) (s : State) :
    exec (.setCoefficient c) s = execSetCoefficient c s := rfl
@[simp] theorem exec_new (s : State) : exec .new s = execNew s := rfl
@[simp] theorem exec_loadRaw (bits : Word) (s : State) : exec (.loadRaw bits) s = execLoadRaw bits s := rfl
@[simp] theorem exec_readRaw (s : State) : exec .readRaw s = execReadRaw s := rfl
@[simp] theorem exec_fromU8 (v : BitVec 8) (s : State) : exec (.fromU8 v) s = execFromU8 v s := rfl
@[simp] theorem exec_fromU16 (v : BitVec 16) (s : State) : exec (.fromU16 v) s = execFromU16 v s := rfl
@[simp] theorem exec_fromU32 (v : Word) (s : State) : exec (.fromU32 v) s = execFromU32 v s := rfl
@[simp] theorem exec_fromU8Checked (v : BitVec 8) (s : State) :
    exec (.fromU8Checked v) s = execFromU8Checked v s := rfl
@[simp] theorem exec_fromU16Checked (v : BitVec 16) (s : State) :
    exec (.fromU16Checked v) s = execFromU16Checked v s := rfl
@[simp] theorem exec_fromU32Checked (v : Word) (s : State) :
    exec (.fromU32Checked v) s = execFromU32Checked v s := rfl

/-! ### What the shared operations, a command and a step can do -/

/-- A command's checks either raise a status or let its effect happen. -/
theorem checked_cases (error : Option Status) (s effect : State) :
    (∃ st, error = some st ∧ checked error s effect = .next (raise st s)) ∨
      (error = none ∧ checked error s effect = .next effect) := by
  cases error with
  | none => exact .inr ⟨rfl, rfl⟩
  | some st => exact .inl ⟨st, rfl, rfl⟩

@[simp] theorem checked_none (s effect : State) : checked none s effect = .next effect := rfl

@[simp] theorem checked_some (st : Status) (s effect : State) :
    checked (some st) s effect = .next (raise st s) := rfl

/-- No check of a command gives OK: a command that raises reports a failure. -/
theorem error_ne_ok :
    (∀ n, digitCountError n ≠ some .ok) ∧ (∀ n v, packError n v ≠ some .ok) ∧
      (∀ d, combDigitError d ≠ some .ok) ∧ (∀ e, exponentError e ≠ some .ok) ∧
      (∀ c, coefficientError c ≠ some .ok) ∧ (∀ v, conversionError v ≠ some .ok) := by
  refine ⟨fun _ => ?_, fun _ _ => ?_, fun _ => ?_, fun _ => ?_, fun _ => ?_, fun _ => ?_⟩ <;>
    simp only [digitCountError, packError, combDigitError, exponentError, coefficientError, conversionError] <;>
    split_ifs <;> simp

/-- What a command can do: it reads and completes, or writes W and completes, or raises a failure. -/
theorem exec_cases (i : Instr) (s : State) :
    (∃ d, exec i s = .next (complete d s)) ∨ (∃ v, exec i s = .next (writeWord v s)) ∨
      (∃ st, st ≠ .ok ∧ exec i s = .next (raise st s)) := by
  have raised : ∀ {error : Option Status} {effect : State}, error ≠ some .ok →
      ((∃ d, effect = complete d s) ∨ ∃ v, effect = writeWord v s) →
      (∃ d, checked error s effect = .next (complete d s)) ∨
        (∃ v, checked error s effect = .next (writeWord v s)) ∨
        (∃ st, st ≠ .ok ∧ checked error s effect = .next (raise st s)) := by
    intro error effect hok heff
    cases error with
    | some st => exact .inr (.inr ⟨st, by rintro rfl; exact hok rfl, rfl⟩)
    | none =>
      rcases heff with ⟨d, rfl⟩ | ⟨v, rfl⟩
      · exact .inl ⟨d, rfl⟩
      · exact .inr (.inl ⟨v, rfl⟩)
  obtain ⟨hdigits, hpack, hcomb, hexp, hcoeff, hconv⟩ := error_ne_ok
  cases i with
  | dpdUnpack n packed => exact raised (hdigits n) (.inl ⟨_, rfl⟩)
  | dpdPack n value => exact raised (hpack n value) (.inl ⟨_, rfl⟩)
  | combEncode m d => exact raised (hcomb d) (.inl ⟨_, rfl⟩)
  | setExponent e => exact raised (hexp _) (.inr ⟨_, rfl⟩)
  | setCoefficient c => exact raised (hcoeff _) (.inr ⟨_, rfl⟩)
  | fromU32 v => exact raised (hcoeff _) (.inr ⟨_, rfl⟩)
  | fromU32Checked v => exact raised (hconv _) (.inr ⟨_, rfl⟩)
  | combDecode _ => exact .inl ⟨_, rfl⟩
  | getSign => exact .inl ⟨_, rfl⟩
  | isSignPositive => exact .inl ⟨_, rfl⟩
  | isSignNegative => exact .inl ⟨_, rfl⟩
  | getExponent => exact .inl ⟨_, rfl⟩
  | getCoefficient => exact .inl ⟨_, rfl⟩
  | readRaw => exact .inl ⟨_, rfl⟩
  | setSign _ => exact .inr (.inl ⟨_, rfl⟩)
  | setSignPositive => exact .inr (.inl ⟨_, rfl⟩)
  | setSignNegative => exact .inr (.inl ⟨_, rfl⟩)
  | new => exact .inr (.inl ⟨_, rfl⟩)
  | loadRaw _ => exact .inr (.inl ⟨_, rfl⟩)
  | fromU8 _ => exact .inr (.inl ⟨_, rfl⟩)
  | fromU16 _ => exact .inr (.inl ⟨_, rfl⟩)
  | fromU8Checked _ => exact .inr (.inl ⟨_, rfl⟩)
  | fromU16Checked _ => exact .inr (.inl ⟨_, rfl⟩)

/-- The command on the port: the decoded one is performed, an illegal word raises BAD_COMMAND. -/
theorem performCommand_ok {c : Command} {i : Instr} (h : decode c = .ok i) (s : State) :
    performCommand c s = exec i s := by simp [performCommand, h]

theorem performCommand_error {c : Command} {e : DecodeError} (h : decode c = .error e) (s : State) :
    performCommand c s = .next (raise .badCommand s) := by simp [performCommand, h]

/-- What a command word can do: as `exec_cases`, for every word. -/
theorem performCommand_cases (c : Command) (s : State) :
    (∃ d, performCommand c s = .next (complete d s)) ∨ (∃ v, performCommand c s = .next (writeWord v s)) ∨
      (∃ st, st ≠ .ok ∧ performCommand c s = .next (raise st s)) := by
  cases h : decode c with
  | ok i => rw [performCommand_ok h]; exact exec_cases i s
  | error e => rw [performCommand_error h]; exact .inr (.inr ⟨_, by decide, rfl⟩)

/-- One step, by the samples the host has yet to present. -/
theorem step_nil {s : State} (h : s.inputs = []) : step s = .next s := by
  simp [step, performNext, takeSample, h]

theorem step_cons {s : State} {p : PortSample} {rest : List PortSample} (h : s.inputs = p :: rest) :
    step s = performSample p { s with inputs := rest } := by
  simp [step, performNext, takeSample, h]

@[simp] theorem performSample_reset (c : Command) (s : State) :
    performSample { rst := true, cmd := c } s = .next (resetBlock s) := rfl

@[simp] theorem performSample_command (c : Command) (s : State) :
    performSample { rst := false, cmd := c } s = performCommand c s := rfl

/-- What a step can do: nothing, a reset, or a command on the state with the sample taken. -/
theorem step_cases (s : State) :
    (s.inputs = [] ∧ step s = .next s) ∨
    (∃ p rest, s.inputs = p :: rest ∧
      (step s = .next (resetBlock { s with inputs := rest }) ∨
        (∃ d, step s = .next (complete d { s with inputs := rest })) ∨
        (∃ v, step s = .next (writeWord v { s with inputs := rest })) ∨
        (∃ st, st ≠ .ok ∧ step s = .next (raise st { s with inputs := rest })))) := by
  cases h : s.inputs with
  | nil => exact .inl ⟨rfl, step_nil h⟩
  | cons p rest =>
    refine .inr ⟨p, rest, rfl, ?_⟩
    obtain ⟨rst, cmd⟩ := p
    rw [step_cons h]
    cases rst with
    | true => exact .inl rfl
    | false => exact .inr (performCommand_cases cmd _)

end Sys2Proof.Machine
end

