-- ==== Sys2Proof/Laws/PerInstr.lean ====
section
/-!
SUPPORT. The family OpField: the word of an instruction carries the instruction's OP value (30_encoding.md R65).
-/

namespace Sys2Proof.Laws.OpField

/-- The OP field of the encoded instruction is the instruction's row of R65. -/
def Statement (i : Instr) : Prop := opOf (encode i) = opcode i

theorem dpdUnpack (n : BitVec 2) (packed : Declet) : Statement (.dpdUnpack n packed) := opOf_mkCommand _ _ _ _
theorem dpdPack (n : BitVec 2) (value : BitVec 10) : Statement (.dpdPack n value) := opOf_mkCommand _ _ _ _
theorem combEncode (m : BitVec 2) (d : BitVec 4) : Statement (.combEncode m d) := opOf_mkCommand _ _ _ _
theorem combDecode (f : BitVec 5) : Statement (.combDecode f) := opOf_mkCommand _ _ _ _
theorem getSign : Statement .getSign := opOf_mkCommand _ _ _ _
theorem setSign (negative : Bool) : Statement (.setSign negative) := opOf_mkCommand _ _ _ _
theorem isSignPositive : Statement .isSignPositive := opOf_mkCommand _ _ _ _
theorem isSignNegative : Statement .isSignNegative := opOf_mkCommand _ _ _ _
theorem setSignPositive : Statement .setSignPositive := opOf_mkCommand _ _ _ _
theorem setSignNegative : Statement .setSignNegative := opOf_mkCommand _ _ _ _
theorem getExponent : Statement .getExponent := opOf_mkCommand _ _ _ _
theorem setExponent (e : BitVec 8) : Statement (.setExponent e) := opOf_mkCommand _ _ _ _
theorem getCoefficient : Statement .getCoefficient := opOf_mkCommand _ _ _ _
theorem setCoefficient (c : Word) : Statement (.setCoefficient c) := opOf_mkCommand _ _ _ _
theorem new : Statement .new := opOf_mkCommand _ _ _ _
theorem loadRaw (bits : Word) : Statement (.loadRaw bits) := opOf_mkCommand _ _ _ _
theorem readRaw : Statement .readRaw := opOf_mkCommand _ _ _ _
theorem fromU8 (v : BitVec 8) : Statement (.fromU8 v) := opOf_mkCommand _ _ _ _
theorem fromU16 (v : BitVec 16) : Statement (.fromU16 v) := opOf_mkCommand _ _ _ _
theorem fromU32 (v : Word) : Statement (.fromU32 v) := opOf_mkCommand _ _ _ _
theorem fromU8Checked (v : BitVec 8) : Statement (.fromU8Checked v) := opOf_mkCommand _ _ _ _
theorem fromU16Checked (v : BitVec 16) : Statement (.fromU16Checked v) := opOf_mkCommand _ _ _ _
theorem fromU32Checked (v : Word) : Statement (.fromU32Checked v) := opOf_mkCommand _ _ _ _

end Sys2Proof.Laws.OpField
end

