-- ==== Sys2Proof/Tests/Slice0.lean ====
section
/-!
SUPPORT. The model's own tests. Expected results are taken from spec/95_test_vectors.md and from the examples and
corner cases of the command rules, never from the model. Then the witnesses: for each statement with hypotheses, a
concrete input that meets them, each clause at a boundary of its range.
-/

namespace Sys2Proof.Tests

open Sys2Proof.Machine Sys2Proof.Safety

/-! ### Helpers -/

/-- `CMD = (OP << 35) | (SEL << 33) | (B << 32) | A` (R60), by arithmetic. -/
def specWord (op sel b a : Nat) : Command := BitVec.ofNat 40 (op * 2 ^ 35 + sel * 2 ^ 33 + b * 2 ^ 32 + a)

/-- What a reader of the vectors sees of an outcome: W, DOUT, STATUS. -/
def view : Result → Option (Word × Word × BitVec 3)
  | .next t => some (t.w, t.dout, t.status)
  | .fault _ => none
  | .refused _ => none

/-- The reset state with another W. -/
def holding (w : Word) : State := { State.reset with w := w }

/-- One step of the command word `c` from a given W. -/
def after (w : Word) (c : Nat) : Option (Word × Word × BitVec 3) :=
  view (step ((holding w).withFetchWord 40 c))

/-- A decode as an option, for `decide`. -/
def read (c : Command) : Option Instr := (decode c).toOption

/-! ### Well-formedness: an ill-formed term for each check (R66, R68) -/

theorem test_unpack_zero_digits_refused : (Instr.dpdUnpack 0#2 0#10).wellFormed = false := by decide
theorem test_unpack_one_digit_group_too_wide : (Instr.dpdUnpack 1#2 16#10).wellFormed = false := by decide
theorem test_unpack_two_digit_group_too_wide : (Instr.dpdUnpack 2#2 128#10).wellFormed = false := by decide
theorem test_pack_zero_digits_refused : (Instr.dpdPack 0#2 5#10).wellFormed = false := by decide

/-! ### Decoding: words from R60, R63 and R65, with ignored bits set (R64) -/

theorem test_decode_dpd :
    read (specWord 0x01 3 1 0xFFFFFFFF) = some (.dpdUnpack 3#2 0x3FF#10) ∧
    read (specWord 0x01 2 0 0x3D0) = some (.dpdUnpack 2#2 0x50#10) ∧
    read (specWord 0x01 1 0 0x3D9) = some (.dpdUnpack 1#2 9#10) ∧
    read (specWord 0x02 3 0 0x4003E7) = some (.dpdPack 3#2 999#10) := by decide

theorem test_decode_combination :
    read (specWord 0x03 0 0 0x25) = some (.combEncode 2#2 5#4) ∧
    read (specWord 0x04 3 1 0xFFFFFFE8) = some (.combDecode 8#5) := by decide

theorem test_decode_sign :
    read (specWord 0x05 0 0 0) = some .getSign ∧
    read (specWord 0x06 3 1 0xFFFFFFFF) = some (.setSign true) ∧
    read (specWord 0x06 3 0 0xFFFFFFFF) = some (.setSign false) ∧
    read (specWord 0x07 1 1 7) = some .isSignPositive ∧
    read (specWord 0x08 0 0 0) = some .isSignNegative ∧
    read (specWord 0x09 0 0 0) = some .setSignPositive ∧
    read (specWord 0x0A 0 0 0) = some .setSignNegative := by decide

theorem test_decode_exponent :
    read (specWord 0x0B 0 0 0) = some .getExponent ∧
    read (specWord 0x0C 0 0 0x7FFFFFFE) = some (.setExponent 0xFE#8) := by decide

theorem test_decode_coefficient :
    read (specWord 0x0D 0 0 0) = some .getCoefficient ∧
    read (specWord 0x0E 0 0 9999999) = some (.setCoefficient 9999999#32) := by decide

theorem test_decode_construction :
    read (specWord 0x0F 0 0 5) = some .new ∧
    read (specWord 0x10 0 0 0xA26003D0) = some (.loadRaw 0xA26003D0#32) ∧
    read (specWord 0x11 0 0 5) = some .readRaw ∧
    read (specWord 0x12 0 0 0x1FF) = some (.fromU8 255#8) ∧
    read (specWord 0x13 0 0 0x1FFFF) = some (.fromU16 65535#16) ∧
    read (specWord 0x14 0 0 10000000) = some (.fromU32 10000000#32) ∧
    read (specWord 0x15 0 0 0x1FF) = some (.fromU8Checked 255#8) ∧
    read (specWord 0x16 0 0 1000) = some (.fromU16Checked 1000#16) ∧
    read (specWord 0x17 0 0 10000000) = some (.fromU32Checked 10000000#32) := by decide

theorem test_decode_illegal :
    read (specWord 0x00 0 0 0x1234) = none ∧ read (specWord 0x18 0 0 0x1234) = none ∧
    read (specWord 0x1F 0 0 0x1234) = none ∧ read (specWord 0x01 0 0 0x3D0) = none ∧
    read (specWord 0x02 0 0 5) = none := by decide

/-- 30_encoding.md R68: the assembler's word of `SET_EXPONENT -2` and of `COMB_ENCODE 2, 9` (95 2.2, 2.4). -/
theorem test_encode_words :
    encode (.setExponent 0xFE#8) = 0x60000000FE#40 ∧ encode (.combEncode 2#2 9#4) = 0x1800000029#40 ∧
    encode (.dpdUnpack 3#2 0x3D0#10) = 0x0E000003D0#40 ∧ encode (.setSign true) = 0x3100000000#40 := by decide

/-! ### DPD codec family (95 2.1) -/

theorem test_unpack_redundant_888 : after 0#32 0x0E0000036E = some (0#32, 888#32, 0#3) := by decide
theorem test_unpack_one_digit_drops : after 0#32 0x0A0000000F = some (0#32, 1#32, 0#3) := by decide
theorem test_pack_979 : after 0#32 0x16000003D3 = some (0#32, 0x3BF#32, 0#3) := by decide
theorem test_pack_two_digits_100 : after 0#32 0x1400000064 = some (0#32, 0#32, 5#3) := by decide

/-! ### Combination field (95 2.2) -/

theorem test_comb_encode_three_seven : after 0#32 0x1800000037 = some (0#32, 31#32, 0#3) := by decide
theorem test_comb_encode_digit_ten : after 0#32 0x180000000A = some (0#32, 0#32, 5#3) := by decide
theorem test_comb_decode_23 : after 0#32 0x2000000017 = some (0#32, 0x27#32, 0#3) := by decide
theorem test_comb_decode_31 : after 0#32 0x200000001F = some (0#32, 0x39#32, 0#3) := by decide

/-! ### Sign (95 2.3; 90_conflicts.md C1) -/

theorem test_get_sign_example : after 0xA26003D0#32 0x2800000000 = some (0xA26003D0#32, 1#32, 0#3) := by decide
theorem test_is_positive_reset : after 0x60000000#32 0x3800000000 = some (0x60000000#32, 1#32, 0#3) := by decide
theorem test_is_negative : after 0xA23003D0#32 0x4000000000 = some (0xA23003D0#32, 1#32, 0#3) := by decide
theorem test_set_sign_one :
    after 0x226003D0#32 0x37FFFFFFFF = some (0xA26003D0#32, 0xA26003D0#32, 0#3) := by decide
theorem test_set_sign_zero :
    after 0xA26003D0#32 0x3000000000 = some (0x226003D0#32, 0x226003D0#32, 0#3) := by decide
theorem test_set_sign_positive :
    after 0xA26003D0#32 0x4800000000 = some (0x226003D0#32, 0x226003D0#32, 0#3) := by decide
theorem test_set_sign_negative :
    after 0x60000000#32 0x5000000000 = some (0xE0000000#32, 0xE0000000#32, 0#3) := by decide

/-! ### Exponent (95 2.4; 90_conflicts.md C3) -/

theorem test_get_exponent_minus_two :
    after 0xA23003D0#32 0x5800000000 = some (0xA23003D0#32, 0xFFFFFFFE#32, 0#3) := by decide
theorem test_get_exponent_wraps :
    after 0x7A500000#32 0x5800000000 = some (0x7A500000#32, 0xFFFFFF80#32, 0#3) := by decide
theorem test_set_exponent_91_digit_zero :
    after 0x226003D0#32 0x600000005B = some (0x600003D0#32, 0x600003D0#32, 0#3) := by decide
theorem test_set_exponent_minus_96 :
    after 0x226003D0#32 0x60000000A0 = some (0x226003D0#32, 0#32, 2#3) := by decide

/-! ### Coefficient (95 2.5; 90_conflicts.md C4) -/

theorem test_get_coefficient_thousand : after 0x400#32 0x6800000000 = some (0x400#32, 1000#32, 0#3) := by decide
theorem test_get_coefficient_max :
    after 0xFFFFFFFF#32 0x6800000000 = some (0xFFFFFFFF#32, 9999999#32, 0#3) := by decide
theorem test_set_coefficient_field_30 :
    after 0x78528E56#32 0x70000002EE = some (0x605003D0#32, 0x605003D0#32, 0#3) := by decide
theorem test_set_coefficient_too_large :
    after 0x22600000#32 0x7000989680 = some (0x22600000#32, 0#32, 3#3) := by decide

/-! ### Construction (95 2.6, 2.7) -/

theorem test_new : after 0xA26003D0#32 0x7800000000 = some (0x60000000#32, 0x60000000#32, 0#3) := by decide
theorem test_load_raw :
    after 0x60000000#32 0x80A26003D0 = some (0xA26003D0#32, 0xA26003D0#32, 0#3) := by decide
theorem test_read_raw : after 0x60000000#32 0x8800000000 = some (0x60000000#32, 0x60000000#32, 0#3) := by decide
theorem test_from_u8_255 : after 0xA26003D0#32 0x90000001FF = some (0x155#32, 0x155#32, 0#3) := by decide
theorem test_from_u16_65535 : after 0xA26003D0#32 0x980000FFFF = some (0x196B5#32, 0x196B5#32, 0#3) := by decide
theorem test_from_u32_max :
    after 0xA26003D0#32 0xA00098967F = some (0x6403FCFF#32, 0x6403FCFF#32, 0#3) := by decide
theorem test_from_u32_too_large :
    after 0xA26003D0#32 0xA000989680 = some (0xA26003D0#32, 0#32, 3#3) := by decide
theorem test_from_u8_checked : after 0xA26003D0#32 0xA8000000FF = some (0x155#32, 0x155#32, 0#3) := by decide
theorem test_from_u16_checked : after 0xA26003D0#32 0xB0000003E8 = some (0x400#32, 0x400#32, 0#3) := by decide
theorem test_from_u32_checked_too_large :
    after 0xA26003D0#32 0xB800989680 = some (0xA26003D0#32, 0#32, 4#3) := by decide

/-- 95 2.7: FROM_INT on the alternative RESET_WORD 0x2260_0000. -/
theorem test_from_int_other_reset_word :
    fromInt 0x22600000#32 Config.romExp 200 = 0x22600100#32 ∧
    fromInt 0x22600000#32 Config.romExp 9999999 = 0x6E63FCFF#32 := by decide

/-! ### Illegal words, reset, nothing presented (95 2.8, 2.10; R211) -/

theorem test_illegal_word : after 0x226003D0#32 0xF800001234 = some (0x226003D0#32, 0#32, 6#3) := by decide

theorem test_reset_wins :
    view (step { holding 0xA23003D0#32 with inputs := [{ rst := true, cmd := 0x80A26003D0#40 }] }) =
      some (0x60000000#32, 0#32, 0#3) := by decide

theorem test_idle : view (step (holding 0xA23003D0#32)) = some (0xA23003D0#32, 0#32, 0#3) := by decide

theorem test_decode_table_word : decodeTableWord 40 0x6800000000 = some .getCoefficient := by decide

/-! ### Witnesses: the hypotheses of the statements can be met -/

/-- DecodeOfEncodeIsIdentity: the widest operand of each form WellFormed bounds. -/
theorem witness_wellFormed :
    (Instr.dpdUnpack 1#2 15#10).wellFormed = true ∧ (Instr.dpdUnpack 2#2 127#10).wellFormed = true ∧
    (Instr.dpdUnpack 3#2 1023#10).wellFormed = true ∧ (Instr.dpdPack 1#2 1023#10).wellFormed = true := by decide

/-- EncodeOfDecodeClearsIgnoredBits, StepPerformsPresentedCommand, StatusOfEveryCommand (legal words). -/
theorem witness_decode_ok : decode 0x37FFFFFFFF#40 = .ok (.setSign true) := by rfl

/-- OperandsComeFromNamedBits: a word for each clause, all operand and ignored bits set. -/
theorem witness_operand_clauses :
    (opN 0x0BFFFFFFFF#40 = 0x01 ∧ selN 0x0BFFFFFFFF#40 = 1) ∧
    (opN 0x0DFFFFFFFF#40 = 0x01 ∧ selN 0x0DFFFFFFFF#40 = 2) ∧
    (opN 0x0FFFFFFFFF#40 = 0x01 ∧ selN 0x0FFFFFFFFF#40 = 3) ∧
    (opN 0x17FFFFFFFF#40 = 0x02 ∧ selN 0x17FFFFFFFF#40 ≠ 0) ∧
    opN 0x1FFFFFFFFF#40 = 0x03 ∧ opN 0x27FFFFFFFF#40 = 0x04 ∧ opN 0x2FFFFFFFFF#40 = 0x05 ∧
    opN 0x37FFFFFFFF#40 = 0x06 ∧ opN 0x3FFFFFFFFF#40 = 0x07 ∧ opN 0x47FFFFFFFF#40 = 0x08 ∧
    opN 0x4FFFFFFFFF#40 = 0x09 ∧ opN 0x57FFFFFFFF#40 = 0x0A ∧ opN 0x5FFFFFFFFF#40 = 0x0B ∧
    opN 0x67FFFFFFFF#40 = 0x0C ∧ opN 0x6FFFFFFFFF#40 = 0x0D ∧ opN 0x77FFFFFFFF#40 = 0x0E ∧
    opN 0x7FFFFFFFFF#40 = 0x0F ∧ opN 0x87FFFFFFFF#40 = 0x10 ∧ opN 0x8FFFFFFFFF#40 = 0x11 ∧
    opN 0x97FFFFFFFF#40 = 0x12 ∧ opN 0x9FFFFFFFFF#40 = 0x13 ∧ opN 0xA7FFFFFFFF#40 = 0x14 ∧
    opN 0xAFFFFFFFFF#40 = 0x15 ∧ opN 0xB7FFFFFFFF#40 = 0x16 ∧ opN 0xBFFFFFFFFF#40 = 0x17 := by decide

/-- IgnoredBitsHaveNoEffect: two words that differ only in ignored bits. -/
theorem witness_ignored_bits :
    0x37FFFFFFFF#40 &&& readMask 0x37FFFFFFFF#40 = 0x3100000000#40 &&& readMask 0x37FFFFFFFF#40 := by decide

/-- IllegalWordsRaiseBadCommand, StatusOfEveryCommand: the last and first word of each illegal range, and the legal
words beside them. -/
theorem witness_illegal_words :
    IllegalWord 0x07FFFFFFFF#40 ∧ IllegalWord 0xC000000000#40 ∧ IllegalWord 0xFFFFFFFFFF#40 ∧
    IllegalWord 0x09FFFFFFFF#40 ∧ IllegalWord 0x11FFFFFFFF#40 ∧
    ¬ IllegalWord 0x0A00000000#40 ∧ ¬ IllegalWord 0xBFFFFFFFFF#40 := by decide

/-- IdleBlockHoldsItsState. -/
theorem witness_idle : (holding 0xA23003D0#32).inputs = [] := rfl

/-- InvariantKeptByEveryStep, RomsAreNeverWritten: a state of the invariant and a step from it that fails. -/
theorem witness_invariant_step :
    BlockInvariant ((holding 0x226003D0#32).withFetchWord 40 0x60000000A0) ∧
    step ((holding 0x226003D0#32).withFetchWord 40 0x60000000A0) =
      .next { holding 0x226003D0#32 with dout := 0#32, status := 2#3 } := ⟨by decide, rfl⟩

/-- ResultIsFunctionOfWordAndRoms: two states that differ in everything else. -/
theorem witness_same_word :
    let s := holding 0x226003D0#32
    let s' := { holding 0x226003D0#32 with dout := 7#32, status := 3#3 }
    s.w = s'.w ∧ s.romExp = s'.romExp ∧ s.romDig = s'.romDig ∧ s.dout ≠ s'.dout ∧ s.status ≠ s'.status := by decide

/-- FailedCommandIsPrecise: an illegal word and an operand out of range. -/
theorem witness_failed :
    (∃ t : State, performSample { rst := false, cmd := 0xC000001234#40 } (holding 5#32) = .next t ∧
      t.status ≠ 0#3) ∧
    (∃ t : State, performSample { rst := false, cmd := 0x6000000061#40 } (holding 5#32) = .next t ∧
      t.status ≠ 0#3) := ⟨⟨_, rfl, by decide⟩, ⟨_, rfl, by decide⟩⟩

/-- OnlyNamedBitsOfWordChange: a next state, and the bits beside each written field. -/
theorem witness_frame :
    exec (.setSign true) (holding 5#32) =
      .next { holding 5#32 with w := 0x80000005#32, dout := 0x80000005#32, status := 0#3 } ∧
    mayWriteBit (.setSign true) 30 = false ∧ mayWriteBit (.setExponent 0#8) 19 = false ∧
    mayWriteBit (.setExponent 0#8) 31 = false ∧ mayWriteBit (.setCoefficient 0#32) 20 = false ∧
    mayWriteBit (.setCoefficient 0#32) 25 = false ∧ mayWriteBit (.setCoefficient 0#32) 31 = false ∧
    mayWriteBit .readRaw 0 = false := ⟨rfl, by decide⟩

/-- ReadingCommandsAreIdempotent. -/
theorem witness_reading (k : Nat) : mayWriteBit (.dpdPack 3#2 1000#10) k = false ∧ mayWriteBit .getSign k = false :=
  ⟨rfl, rfl⟩

/-- DpdEncodeIsSmallestPattern: the largest values of three, one and two digits, and a redundant pattern. -/
theorem witness_smallest_pattern :
    ((999 : Nat) ≤ 999 ∧ val3 0x3FF#10 = 999) ∧ (9 : Nat) ≤ 9 ∧ (99 : Nat) ≤ 99 ∧
    (0x3FF#10 &&& 0x06E#10 : Declet) = 0x06E#10 := by decide

/-- DpdUnpackStaysInRange, DpdPackResult, DpdPackThenUnpackRoundTrips: each count, the last value that fits and the
first that does not. -/
theorem witness_digit_counts :
    (1#2 ≠ 0#2 ∧ (9#10).toNat < 10 ^ (1#2).toNat ∧ 10 ^ (1#2).toNat ≤ (10#10).toNat) ∧
    (2#2 ≠ 0#2 ∧ (99#10).toNat < 10 ^ (2#2).toNat ∧ 10 ^ (2#2).toNat ≤ (100#10).toNat) ∧
    (3#2 ≠ 0#2 ∧ (999#10).toNat < 10 ^ (3#2).toNat ∧ 10 ^ (3#2).toNat ≤ (1000#10).toNat) ∧
    (opN 0x09FFFFFFFF#40 = 0x01 ∧ selN 0x09FFFFFFFF#40 = 0) ∧
    (opN 0x11FFFFFFFF#40 = 0x02 ∧ selN 0x11FFFFFFFF#40 = 0) := by decide

/-- The states of every statement with the premise RomsAsSpecified. -/
theorem witness_roms (w : Word) : RomsAsSpecified (holding w) := ⟨rfl, rfl⟩

/-- CombEncodeResult, CombDecodeOfEncode: the bounds of the digit and of the exp MSB. -/
theorem witness_comb_clauses :
    (9#4).toNat ≤ 9 ∧ 9 < (10#4).toNat ∧ (2#2).toNat ≤ 2 ∧ 8 ≤ (8#4).toNat ∧
    ((3#2).toNat = 3 ∧ (7#4).toNat ≤ 7) := by decide

/-- SetExponentResult: the ends of the window and the values beside them, and a word whose MSD is 9. -/
theorem witness_exponent_window :
    (-95 ≤ (0xA1#8).toInt ∧ (0xA1#8).toInt ≤ 96) ∧ (-95 ≤ (0x60#8).toInt ∧ (0x60#8).toInt ≤ 96) ∧
    96 < (0x61#8).toInt ∧ (0xA0#8).toInt < -95 ∧
    (romDigAt (holding 0x64000000#32).romDig (combOf (holding 0x64000000#32).w)).toNat = 9 := by decide

/-- SetExponentRoundTrips, EveryValueCanBeBuiltAndRead: both ends. -/
theorem witness_exponent_round_trip :
    ((0xA1#8).toInt = -95 ∧ (0x5A#8).toInt = 90) ∧ (9999999#32).toNat ≤ 9999999 := by decide

/-- SetExponentTopOfWindow: both ends, with MSD 8 and with MSD 7. -/
theorem witness_top_of_window :
    (91 ≤ (0x5B#8).toInt ∧ (0x5B#8).toInt ≤ 96) ∧ (91 ≤ (0x60#8).toInt ∧ (0x60#8).toInt ≤ 96) ∧
    8 ≤ digN (combN (holding 0x60000000#32).w) ∧ digN (combN (holding 0x1C000000#32).w) = 7 := by decide

/-- SetCoefficientResult, FromIntegerResults, FromIntegerReadsBack, CheckedConversionsAgree: the last coefficient in
range and the first out of it. -/
theorem witness_coefficient_range : (9999999#32).toNat ≤ 9999999 ∧ 9999999 < (10000000#32).toNat := by decide

/-- SetCoefficientRoundTrips, SetCoefficientOnTopFields: fields 29 and 30, and the coefficients where the MSD
becomes 8. -/
theorem witness_fields_29_30 :
    combN (holding 0x74000000#32).w = 29 ∧ combN (holding 0x78528E56#32).w = 30 ∧
    8000000 ≤ (8000000#32).toNat ∧ (7999999#32).toNat < 8000000 := by decide

/-- ReadingsDetermineCanonicalWord: the source's example word. -/
theorem witness_canonical_word :
    combN (holding 0xA26003D0#32).w ≤ 29 ∧ 6 ≤ biasedN (holding 0xA26003D0#32).w ∧
    dpdEnc (val3 (upperDecletOf (holding 0xA26003D0#32).w)) = upperDecletOf (holding 0xA26003D0#32).w ∧
    dpdEnc (val3 (lowerDecletOf (holding 0xA26003D0#32).w)) = lowerDecletOf (holding 0xA26003D0#32).w := by decide

end Sys2Proof.Tests
end

section
/-!
SUPPORT. The whole-machine rules of 10_state.md: what a step can leave, the block invariant, the frame of every
command, and the independence of a command's results from DOUT, STATUS and the samples still to come.
-/

namespace Sys2Proof.Machine

open Sys2Proof.Safety

/-! ### What a step leaves -/

/-- `step_cases`, read from the state after the step: nothing happened, or a sample was taken and the block was
reset, completed a command or raised a status. -/
theorem eq_of_step_eq_next {s t : State} (h : step s = .next t) :
    t = s ∨ ∃ rest, t = resetBlock { s with inputs := rest } ∨
      (∃ d, t = complete d { s with inputs := rest }) ∨
      (∃ v, t = writeWord v { s with inputs := rest }) ∨
      ∃ st, t = raise st { s with inputs := rest } := by
  obtain ⟨-, hs⟩ | ⟨-, rest, -, hs | ⟨d, hs⟩ | ⟨v, hs⟩ | ⟨st, -, hs⟩⟩ := step_cases s <;> cases hs.symm.trans h
  · exact .inl rfl
  · exact .inr ⟨rest, .inl rfl⟩
  · exact .inr ⟨rest, .inr (.inl ⟨d, rfl⟩)⟩
  · exact .inr ⟨rest, .inr (.inr (.inl ⟨v, rfl⟩))⟩
  · exact .inr ⟨rest, .inr (.inr (.inr ⟨st, rfl⟩))⟩

/-- Settles O15, by the five things a step can do: each state update keeps the tables. -/
theorem romsAreNeverWritten : Obligations.RomsAreNeverWritten := by
  intro s t h
  obtain rfl | ⟨rest, rfl | ⟨d, rfl⟩ | ⟨v, rfl⟩ | ⟨st, rfl⟩⟩ := eq_of_step_eq_next h <;> exact ⟨rfl, rfl⟩

/-! ### The block invariant -/

/-- R23: code 7 is the code of no status. -/
theorem statusCode_ne_seven (st : Status) : statusCode st ≠ 7#3 := by
  cases st <;> decide

/-- A state whose STATUS is OK meets the invariant as soon as its tables do. -/
theorem blockInvariant_of_status_ok {s : State} (hroms : RomsAsSpecified s) (hok : s.status = 0#3) :
    BlockInvariant s :=
  ⟨hroms, by rw [hok]; decide, fun hfail => absurd hok hfail⟩

/-- Raising a status meets it too: the code is not 7, and DOUT is cleared (R186). -/
theorem blockInvariant_raise {s : State} (hroms : RomsAsSpecified s) (st : Status) :
    BlockInvariant (raise st s) :=
  ⟨hroms, statusCode_ne_seven st, fun _ => rfl⟩

/-- Settles O13: an idle step keeps the state, a reset or a completed command leaves STATUS OK, and raising a status
clears DOUT; the tables are kept in every case. -/
theorem invariantKeptByEveryStep : Obligations.InvariantKeptByEveryStep := by
  intro s t hinv h
  have hroms : RomsAsSpecified s := hinv.1
  obtain rfl | ⟨rest, rfl | ⟨d, rfl⟩ | ⟨v, rfl⟩ | ⟨st, rfl⟩⟩ := eq_of_step_eq_next h
  · exact hinv
  · exact blockInvariant_of_status_ok hroms rfl
  · exact blockInvariant_of_status_ok hroms rfl
  · exact blockInvariant_of_status_ok hroms rfl
  · exact blockInvariant_raise hroms st

/-- Settles O14: the tables are the configured ones and STATUS is OK. -/
theorem invariantHoldsAtReset : Obligations.InvariantHoldsAtReset :=
  blockInvariant_of_status_ok ⟨rfl, rfl⟩ rfl

/-! ### The presented command and the reset state -/

/-- Settles O7, by taking the sample and, for a legal word, decoding it. -/
theorem stepPerformsPresentedCommand : Obligations.StepPerformsPresentedCommand := by
  intro s rest
  refine ⟨fun p => step_cons rfl, fun c i hdec => ?_⟩
  calc step { s with inputs := { rst := false, cmd := c } :: rest }
      = performSample { rst := false, cmd := c } { s with inputs := rest } := step_cons rfl
    _ = exec i { s with inputs := rest } := performCommand_ok hdec _

/-- R32: the logical exponent of RESET_WORD. -/
theorem expOf_resetWord : expOf Config.romExp Config.resetWord = BitVec.ofInt 8 (-101) := by decide

/-- R32: the coefficient of RESET_WORD. -/
theorem coeffOf_resetWord : coeffOf Config.romDig Config.resetWord = 8000000 := by decide

/-- Settles O9: the registers and the fields by evaluation, the two readings by what RESET_WORD decodes to. -/
theorem resetStateAndItsReadings : Obligations.ResetStateAndItsReadings := by
  refine ⟨rfl, rfl, rfl, ⟨rfl, rfl⟩, by decide, by decide, by decide, by decide,
    ⟨sext32 (expOf Config.romExp Config.resetWord), rfl, ?_⟩,
    ⟨natWord (coeffOf Config.romDig Config.resetWord), rfl, ?_⟩⟩
  · rw [expOf_resetWord]; decide
  · rw [coeffOf_resetWord]; exact natWord_toNat (by decide)

/-! ### The frame of every command -/

/-- No command writes the tables or the samples still to come. -/
theorem exec_frame {i : Instr} {s t : State} (h : exec i s = .next t) :
    t.romExp = s.romExp ∧ t.romDig = s.romDig ∧ t.inputs = s.inputs := by
  obtain ⟨d, hs⟩ | ⟨v, hs⟩ | ⟨st, -, hs⟩ := exec_cases i s <;> cases hs.symm.trans h <;> exact ⟨rfl, rfl, rfl⟩

/-- R119's mask is SET_SIGN's write of a positive sign. -/
theorem and_mask_eq_withSign (w : Word) : w &&& 0x7FFFFFFF#32 = withSign w false := by
  simp [withSign, zext32]

/-- R120's mask is SET_SIGN's write of a negative sign. -/
theorem or_mask_eq_withSign (w : Word) : w ||| 0x80000000#32 = withSign w true := by
  apply BitVec.eq_of_getLsbD_eq
  intro k hk
  rw [getLsbD_withSign]
  interval_cases k <;> simp

theorem withSign_frame {k : Nat} (hk : k ≠ 31) (w : Word) (b : Bool) :
    (withSign w b).getLsbD k = w.getLsbD k := by
  rw [getLsbD_withSign, if_neg hk]

theorem exponentWord_frame {k : Nat} (hk : ¬ (20 ≤ k ∧ k ≤ 30)) (rom : RomDig) (w : Word) (e : Int) :
    (exponentWord rom w e).getLsbD k = w.getLsbD k := by
  rw [exponentWord, getLsbD_withCombEcont]
  by_cases h20 : k < 20
  · rw [if_pos h20]
  · rw [if_neg h20, if_neg (by omega), if_neg (by omega)]

theorem coefficientWord_frame {k : Nat} (hk : ¬ (k ≤ 19 ∨ (26 ≤ k ∧ k ≤ 30))) (rom : RomExp) (w : Word) (c : Nat) :
    (coefficientWord rom w c).getLsbD k = w.getLsbD k := by
  rw [coefficientWord, getLsbD_withCombCcont, if_neg (by omega)]
  by_cases h26 : k < 26
  · rw [if_pos h26]
  · rw [if_neg h26, if_neg (by omega)]

/-- A checked command keeps a bit of W that its effect keeps: raising a status writes no bit of W. -/
theorem checked_keeps_bit {error : Option Status} {s effect t : State} {k : Nat}
    (h : checked error s effect = .next t) (heff : effect.w.getLsbD k = s.w.getLsbD k) :
    t.w.getLsbD k = s.w.getLsbD k := by
  obtain ⟨st, -, hs⟩ | ⟨-, hs⟩ := checked_cases error s effect <;> cases hs.symm.trans h
  · rfl
  · exact heff

/-- R31: a bit that the command's rule does not name is as before. -/
theorem exec_keeps_bit {i : Instr} {s t : State} {k : Nat} (h : exec i s = .next t)
    (hk : mayWriteBit i k = false) : t.w.getLsbD k = s.w.getLsbD k := by
  cases i with
  | dpdUnpack | dpdPack | combEncode => exact checked_keeps_bit h rfl
  | combDecode | getSign | isSignPositive | isSignNegative | getExponent | getCoefficient | readRaw =>
    cases h; rfl
  | setSign negative => cases h; exact withSign_frame (by simpa [mayWriteBit] using hk) s.w negative
  | setSignPositive =>
    cases h
    rw [writeWord_w, and_mask_eq_withSign]
    exact withSign_frame (by simpa [mayWriteBit] using hk) s.w false
  | setSignNegative =>
    cases h
    rw [writeWord_w, or_mask_eq_withSign]
    exact withSign_frame (by simpa [mayWriteBit] using hk) s.w true
  | setExponent e => exact checked_keeps_bit h (exponentWord_frame (of_decide_eq_false hk) s.romDig s.w e.toInt)
  | setCoefficient c =>
    exact checked_keeps_bit h (coefficientWord_frame (of_decide_eq_false hk) s.romExp s.w c.toNat)
  | new | loadRaw | fromU8 | fromU16 | fromU32 | fromU8Checked | fromU16Checked | fromU32Checked => cases hk

/-- Settles O19, by the bits each command keeps and the frame all commands share. -/
theorem onlyNamedBitsOfWordChange : Obligations.OnlyNamedBitsOfWordChange :=
  fun _ _ _ h => ⟨fun _ hk => exec_keeps_bit h hk, exec_frame h⟩

/-! ### Independence of DOUT, STATUS and the samples still to come -/

/-- `s` with other values in everything R28 says a result does not depend on. -/
def withOutputs (d : Word) (q : BitVec 3) (xs : List PortSample) (s : State) : State :=
  { s with dout := d, status := q, inputs := xs }

/-- Two states that agree on W and the tables differ by `withOutputs`. -/
theorem eq_withOutputs {s s' : State} (hw : s.w = s'.w) (hexp : s.romExp = s'.romExp) (hdig : s.romDig = s'.romDig) :
    s' = withOutputs s'.dout s'.status s'.inputs s := by
  simp [withOutputs, hw, hexp, hdig]

section Outputs

variable {d : Word} {q : BitVec 3} {xs : List PortSample} {s t : State}

/-- A checked command's outcome keeps only the samples of the state it started from, if its effect does so. -/
theorem checked_withOutputs {error : Option Status} {effect effect' : State}
    (heff : effect' = { effect with inputs := xs }) (h : checked error s effect = .next t) :
    checked error (withOutputs d q xs s) effect' = .next { t with inputs := xs } := by
  obtain ⟨st, rfl, hs⟩ | ⟨rfl, hs⟩ := checked_cases error s effect <;> cases hs.symm.trans h
  · rfl
  · rw [heff, checked_none]

/-- R28: from other DOUT, STATUS and samples a command leaves the same state, but for the samples. -/
theorem exec_withOutputs {i : Instr} (h : exec i s = .next t) :
    exec i (withOutputs d q xs s) = .next { t with inputs := xs } := by
  cases i with
  | dpdUnpack | dpdPack | combEncode | setExponent | setCoefficient | fromU32 | fromU32Checked =>
    exact checked_withOutputs rfl h
  | _ => cases h; rfl

theorem performCommand_withOutputs {c : Command} (h : performCommand c s = .next t) :
    performCommand c (withOutputs d q xs s) = .next { t with inputs := xs } := by
  cases hdec : decode c with
  | ok i =>
    rw [performCommand_ok hdec] at h ⊢
    exact exec_withOutputs h
  | error e =>
    rw [performCommand_error hdec] at h ⊢
    cases h; rfl

end Outputs

/-- R185: every command word leaves a next state. -/
theorem performCommand_completes (c : Command) (s : State) : ∃ t, performCommand c s = .next t := by
  obtain ⟨d, h⟩ | ⟨v, h⟩ | ⟨st, -, h⟩ := performCommand_cases c s <;> exact ⟨_, h⟩

/-- Settles O16: the second state is the first with other outputs, from which the command leaves the same W, DOUT
and STATUS. -/
theorem resultIsFunctionOfWordAndRoms : Obligations.ResultIsFunctionOfWordAndRoms := by
  intro s s' c hw hexp hdig
  obtain ⟨t, h⟩ := performCommand_completes c s
  refine ⟨t, { t with inputs := s'.inputs }, h, ?_, rfl, rfl, rfl⟩
  rw [eq_withOutputs hw hexp hdig, performSample_command]
  exact performCommand_withOutputs h

end Sys2Proof.Machine
end

section
/-!
SUPPORT. The ordering and repetition rules of 20_memory.md: a run over port samples taken one at a time (R47), and
a command that only reads W given twice (R46).
-/

namespace Sys2Proof.Machine

open Sys2Proof.Safety

/-! ### Runs over samples -/

theorem runSteps_succ {s t : State} (h : step s = .next t) (k : Nat) : runSteps (k + 1) s = runSteps k t := by
  simp only [runSteps, h]

/-- A run of `m + n` steps is a run of `m` steps and then, from the state it leaves, a run of `n`. -/
theorem runSteps_add {m n : Nat} {s t : State} (h : runSteps m s = .next t) :
    runSteps (m + n) s = runSteps n t := by
  induction m generalizing s with
  | zero => cases h; rw [Nat.zero_add]
  | succ m ih =>
    rw [Nat.succ_add]
    cases hs : step s with
    | next u =>
      rw [runSteps_succ hs] at h ⊢
      exact ih h
    | fault r => cases r
    | refused r => simp [runSteps, hs] at h

/-- A sample is performed without looking at the samples behind it, which are kept (R28, R47, R185). -/
theorem performSample_keeps_later (p : PortSample) (s : State) :
    ∃ t : State, ∀ later, performSample p { s with inputs := later } = .next { t with inputs := later } := by
  obtain ⟨rst, cmd⟩ := p
  cases rst with
  | true => exact ⟨resetBlock s, fun _ => rfl⟩
  | false =>
    obtain ⟨t, h⟩ := performCommand_completes cmd s
    exact ⟨t, fun _ => performCommand_withOutputs (d := s.dout) (q := s.status) h⟩

/-- A run that takes the samples `xs` leaves the samples behind them, on which nothing else depends. -/
theorem runSteps_keeps_later (xs : List PortSample) (s : State) :
    ∃ t : State, ∀ later,
      runSteps xs.length { s with inputs := xs ++ later } = .next { t with inputs := later } := by
  induction xs generalizing s with
  | nil => exact ⟨s, fun _ => rfl⟩
  | cons p xs ih =>
    obtain ⟨u, hu⟩ := performSample_keeps_later p s
    obtain ⟨t, ht⟩ := ih u
    refine ⟨t, fun later => ?_⟩
    have hstep : step { s with inputs := p :: (xs ++ later) } = .next { u with inputs := xs ++ later } :=
      (step_cons rfl).trans (hu _)
    exact (runSteps_succ hstep xs.length).trans (ht later)

/-- Settles O12: the run over `xs` leaves the same state with `ys` behind it as alone, but for `ys`, and the run
over the joined list goes on from there. -/
theorem commandsTakeEffectInOrder : Obligations.CommandsTakeEffectInOrder := by
  intro s xs ys
  obtain ⟨t, ht⟩ := runSteps_keeps_later xs s
  obtain ⟨u, hu⟩ := runSteps_keeps_later ys t
  have hxs := ht []
  have hys := hu []
  rw [List.append_nil] at hxs hys
  exact ⟨{ t with inputs := [] }, { u with inputs := [] }, hxs, rfl, hys, rfl, (runSteps_add (ht ys)).trans hys⟩

/-! ### Commands that only read W -/

/-- R185: every instruction leaves a next state. -/
theorem exec_completes (i : Instr) (s : State) : ∃ t, exec i s = .next t := by
  obtain ⟨d, h⟩ | ⟨v, h⟩ | ⟨st, -, h⟩ := exec_cases i s <;> exact ⟨_, h⟩

/-- R46: a command that leaves W as it was gives the same state again, for its result depends on W and the tables
alone. -/
theorem exec_repeat_of_word_kept {i : Instr} {s t : State} (h : exec i s = .next t) (hw : t.w = s.w) :
    exec i t = .next t := by
  obtain ⟨hexp, hdig, -⟩ := exec_frame h
  calc exec i t
      = exec i (withOutputs t.dout t.status t.inputs s) :=
        congrArg (exec i) (eq_withOutputs hw.symm hexp.symm hdig.symm)
    _ = .next t := exec_withOutputs h

/-- Settles O20: a command that may write no bit of W leaves W as it was, so its repetition gives the same state. -/
theorem readingCommandsAreIdempotent : Obligations.ReadingCommandsAreIdempotent := by
  intro i s hreads
  obtain ⟨t, h⟩ := exec_completes i s
  have hw : t.w = s.w := BitVec.eq_of_getLsbD_eq fun k _ => exec_keeps_bit h (hreads k)
  exact ⟨t, h, hw, exec_repeat_of_word_kept h hw⟩

end Sys2Proof.Machine
end

section
/-!
SUPPORT. The command word of 30_encoding.md: what the decoder reads from each field, the word the encoder makes of
it, and the bits of a word that decide what it does.
-/

namespace Sys2Proof

open Sys2Proof.Machine Sys2Proof.Safety

/-! ### Operands in the A field -/

theorem digitCount_cases : ∀ {n : BitVec 2}, n ≠ 0#2 → n = 1#2 ∨ n = 2#2 ∨ n = 3#2 := by decide

/-- R63, R83: the packed group is the low 3n + 1 bits of A. -/
theorem packedOperand_eq {n : BitVec 2} (hn : n ≠ 0#2) (a : Word) :
    packedOperand n a = (a.extractLsb' 0 (3 * n.toNat + 1)).setWidth 10 := by
  obtain rfl | rfl | rfl := digitCount_cases hn
  · rfl
  · rfl
  · exact (BitVec.setWidth_eq _).symm

theorem packedOperand_toNat {n : BitVec 2} (hn : n ≠ 0#2) (a : Word) :
    (packedOperand n a).toNat = a.toNat % 2 ^ (3 * n.toNat + 1) := by
  rw [packedOperand_eq hn, BitVec.toNat_setWidth_of_le (by omega), BitVec.extractLsb'_toNat, Nat.shiftRight_zero]

theorem groupFits_packedOperand {n : BitVec 2} (hn : n ≠ 0#2) (a : Word) :
    groupFits n (packedOperand n a) = true :=
  decide_eq_true (by rw [packedOperand_toNat hn]; exact Nat.mod_lt _ (by positivity))

/-- A group that fits its digit count is read back from the A field it is zero-extended to. -/
theorem packedOperand_setWidth {n : BitVec 2} {packed : Declet} (hn : n ≠ 0#2) (hfits : groupFits n packed = true) :
    packedOperand n (packed.setWidth 32) = packed := by
  apply BitVec.eq_of_toNat_eq
  rw [packedOperand_toNat hn, BitVec.toNat_setWidth_of_le (by decide)]
  exact Nat.mod_eq_of_lt (of_decide_eq_true hfits)

/-- COMB_ENCODE's two operands are read back from the A field that joins them (R63). -/
theorem extractLsb'_combOperands (m : BitVec 2) (d : BitVec 4) :
    ((m.setWidth 32 <<< 4) ||| d.setWidth 32).extractLsb' 4 2 = m ∧
      ((m.setWidth 32 <<< 4) ||| d.setWidth 32).extractLsb' 0 4 = d := by
  revert m d; decide

/-! ### Decode of encode, and words written out -/

/-- Settles O1, command by command: the decoder reads back each field of the word, and each operand fits the bits
it is read from, a packed group because the instruction is well formed. -/
theorem decodeOfEncodeIsIdentity : Obligations.DecodeOfEncodeIsIdentity := by
  intro i hwf
  cases i with
  | dpdUnpack n packed =>
    obtain ⟨hn, hfits⟩ : n ≠ 0#2 ∧ groupFits n packed = true := by
      simpa [Instr.wellFormed, digitCountOk] using hwf
    simp [encode, opcode, decodeFields, hn, packedOperand_setWidth hn hfits]
  | dpdPack n value =>
    have hn : n ≠ 0#2 := by simpa [Instr.wellFormed, digitCountOk] using hwf
    simp [encode, opcode, decodeFields, hn, BitVec.extractLsb'_setWidth_of_le]
  | combEncode m d => simp [encode, opcode, decodeFields, extractLsb'_combOperands m d]
  | combDecode | setExponent | fromU8 | fromU16 | fromU8Checked | fromU16Checked =>
    simp [encode, opcode, decodeFields, BitVec.extractLsb'_setWidth_of_le]
  | _ => exact decode_mkCommand _ _ _ _

/-- Settles O6: nine words, each decoded by evaluation. -/
theorem writtenWordsDecode : Obligations.WrittenWordsDecode :=
  ⟨rfl, rfl, rfl, rfl, rfl, rfl, rfl, rfl, rfl⟩

/-! ### Which instruction a word selects -/

/-- R65: the OP value selects the row of the opcode map. -/
theorem decode_of_opN {c : Command} {k : Nat} (h : opN c = k) :
    decode c = decodeFields (BitVec.ofNat 5 k) (selOf c) (bOf c) (aOf c) := by
  rw [decode, ← h, ← opOf_toNat, BitVec.ofNat_toNat, BitVec.setWidth_eq]

/-- A row of the opcode map whose command `f` takes one operand, read in two ways. -/
theorem decode_row {α : Type} {c : Command} {k : Nat} {x y : α} (f : α → Instr) (h : opN c = k)
    (hrow : decodeFields (BitVec.ofNat 5 k) (selOf c) (bOf c) (aOf c) = .ok (f x)) (hxy : x = y) :
    decode c = .ok (f y) := by
  rw [decode_of_opN h, hrow, hxy]

theorem selOf_eq_ofNat (c : Command) : selOf c = BitVec.ofNat 2 (selN c) := by
  rw [← selOf_toNat, BitVec.ofNat_toNat, BitVec.setWidth_eq]

theorem selOf_eq_zero_iff {c : Command} : selOf c = 0#2 ↔ selN c = 0 := by
  rw [← selOf_toNat, ← BitVec.toNat_inj, BitVec.toNat_ofNat]

theorem aOf_eq_ofNat (c : Command) : aOf c = BitVec.ofNat 32 (c.toNat % 2 ^ 32) := by
  rw [← aOf_toNat, BitVec.ofNat_toNat, BitVec.setWidth_eq]

/-- Bits of A are bits of the command word, read by division and remainder. -/
theorem extractLsb'_aOf {start len : Nat} (hlen : start + len ≤ 32) (c : Command) :
    (aOf c).extractLsb' start len = BitVec.ofNat len (c.toNat / 2 ^ start % 2 ^ len) := by
  apply BitVec.eq_of_getLsbD_eq
  intro k hk
  rw [BitVec.getLsbD_extractLsb', BitVec.getLsbD, aOf_toNat, BitVec.getLsbD_ofNat, Nat.testBit_mod_two_pow,
    Nat.testBit_mod_two_pow, Nat.testBit_div_two_pow, Nat.add_comm k]
  simp [hk, show start + k < 32 by omega]

theorem extractLsb'_zero_aOf {len : Nat} (hlen : len ≤ 32) (c : Command) :
    (aOf c).extractLsb' 0 len = BitVec.ofNat len (c.toNat % 2 ^ len) := by
  rw [extractLsb'_aOf (by omega), Nat.pow_zero, Nat.div_one]

theorem packedOperand_aOf {n : BitVec 2} (hn : n ≠ 0#2) (c : Command) :
    packedOperand n (aOf c) = BitVec.ofNat 10 (c.toNat % 2 ^ (3 * n.toNat + 1)) := by
  have hfits : c.toNat % 2 ^ (3 * n.toNat + 1) < 2 ^ 10 :=
    (Nat.mod_lt _ (by positivity)).trans_le (Nat.pow_le_pow_right (by decide) (by omega))
  apply BitVec.eq_of_toNat_eq
  rw [packedOperand_toNat hn, aOf_toNat, BitVec.toNat_ofNat, Nat.mod_mod_of_dvd _ (pow_dvd_pow 2 (by omega)),
    Nat.mod_eq_of_lt hfits]

/-- R63's first row, for each digit count. -/
theorem decode_dpdUnpack {c : Command} {n : BitVec 2} (hn : n ≠ 0#2) (h : opN c = 0x01) (hsel : selN c = n.toNat) :
    decode c = .ok (.dpdUnpack n (BitVec.ofNat 10 (c.toNat % 2 ^ (3 * n.toNat + 1)))) := by
  rw [decode_of_opN h, selOf_eq_ofNat, hsel, BitVec.ofNat_toNat, BitVec.setWidth_eq, ← packedOperand_aOf hn]
  exact if_neg hn

/-- R63's second row. -/
theorem decode_dpdPack {c : Command} (h : opN c = 0x02) (hsel : selN c ≠ 0) :
    decode c = .ok (.dpdPack (BitVec.ofNat 2 (selN c)) (BitVec.ofNat 10 (c.toNat % 2 ^ 10))) := by
  rw [decode_of_opN h, ← selOf_eq_ofNat, ← extractLsb'_zero_aOf (by decide)]
  exact if_neg (mt selOf_eq_zero_iff.1 hsel)

/-- Settles O3, row by row: the OP value selects the row, and its operand is a range of the word's bits. -/
theorem operandsComeFromNamedBits : Obligations.OperandsComeFromNamedBits := by
  intro c
  have low (len : Nat) (hlen : len ≤ 32) := extractLsb'_zero_aOf hlen c
  exact ⟨
    decode_dpdUnpack (n := 1#2) (by decide),
    decode_dpdUnpack (n := 2#2) (by decide),
    decode_dpdUnpack (n := 3#2) (by decide),
    decode_dpdPack,
    fun h => (decode_of_opN h).trans (congrArg₂ (fun m d => Except.ok (Instr.combEncode m d))
      (extractLsb'_aOf (start := 4) (len := 2) (by decide) c) (low 4 (by decide))),
    fun h => decode_row .combDecode h rfl (low 5 (by decide)),
    decode_of_opN,
    fun h => decode_row .setSign h rfl (bOf_eq c),
    decode_of_opN,
    decode_of_opN,
    decode_of_opN,
    decode_of_opN,
    decode_of_opN,
    fun h => decode_row .setExponent h rfl (low 8 (by decide)),
    decode_of_opN,
    fun h => decode_row .setCoefficient h rfl (aOf_eq_ofNat c),
    decode_of_opN,
    fun h => decode_row .loadRaw h rfl (aOf_eq_ofNat c),
    decode_of_opN,
    fun h => decode_row .fromU8 h rfl (low 8 (by decide)),
    fun h => decode_row .fromU16 h rfl (low 16 (by decide)),
    fun h => decode_row .fromU32 h rfl (aOf_eq_ofNat c),
    fun h => decode_row .fromU8Checked h rfl (low 8 (by decide)),
    fun h => decode_row .fromU16Checked h rfl (low 16 (by decide)),
    fun h => decode_row .fromU32Checked h rfl (aOf_eq_ofNat c)⟩

/-! ### Which words are legal -/

theorem opN_lt (c : Command) : opN c < 32 := by
  rw [← opOf_toNat]; exact (opOf c).isLt

/-- R62: the decoder refuses an illegal word. -/
theorem decode_of_illegalWord {c : Command} (h : IllegalWord c) : ∃ e, decode c = .error e := by
  obtain h | h | ⟨h | h, hsel⟩ := h
  · exact ⟨_, decode_of_opN h⟩
  · have := opN_lt c
    interval_cases hop : opN c <;> exact ⟨_, decode_of_opN hop⟩
  all_goals
    rw [decode_of_opN h, selOf_eq_ofNat, hsel]
    exact ⟨_, rfl⟩

/-- R65: every other word has a row of the opcode map. -/
theorem decode_of_not_illegalWord {c : Command} (h : ¬ IllegalWord c) : ∃ i, decode c = .ok i := by
  obtain hop | hop | ⟨hlo, hhi⟩ : opN c = 0x01 ∨ opN c = 0x02 ∨ 0x03 ≤ opN c ∧ opN c ≤ 0x17 := by omega
  · exact ⟨_, decode_dpdUnpack (mt selOf_eq_zero_iff.1 (by omega)) hop (selOf_toNat c).symm⟩
  · exact ⟨_, decode_dpdPack hop (by omega)⟩
  · interval_cases hop : opN c <;> exact ⟨_, decode_of_opN hop⟩

theorem performCommand_of_illegalWord {c : Command} (h : IllegalWord c) (s : State) :
    performCommand c s = .next (raise .badCommand s) := by
  obtain ⟨e, he⟩ := decode_of_illegalWord h
  exact performCommand_error he s

/-- Settles O5: a legal word has its row, and an illegal one, refused by the decoder, raises BAD_COMMAND. -/
theorem illegalWordsRaiseBadCommand : Obligations.IllegalWordsRaiseBadCommand := by
  refine fun c => ⟨⟨?_, decode_of_not_illegalWord⟩, performCommand_of_illegalWord⟩
  rintro ⟨i, hi⟩ hill
  obtain ⟨e, he⟩ := decode_of_illegalWord hill
  cases hi.symm.trans he

/-! ### Terms with the digit count 0 -/

/-- Settles O29: the digit count 0 fails both commands' checks with BAD_COMMAND. -/
theorem zeroDigitCountTermRaises : Obligations.ZeroDigitCountTermRaises := by
  intro a s
  rw [exec_dpdUnpack, exec_dpdPack, execDpdUnpack, execDpdPack, digitCountError_zero, packError_zero, checked_some,
    checked_some]
  exact ⟨rfl, rfl⟩

/-! ### Operands as fields with the other bits cleared -/

/-- An operand that is the low `k` bits of A, put back into an A field, is A with its other bits cleared. -/
theorem setWidth_eq_and_mask {k w : Nat} (hk : k ≤ 32) {v : BitVec w} {a : Word} (h : v.toNat = a.toNat % 2 ^ k) :
    v.setWidth 32 = a &&& BitVec.ofNat 32 (2 ^ k - 1) := by
  have hpow : 2 ^ k ≤ 2 ^ 32 := Nat.pow_le_pow_right (by decide) hk
  apply BitVec.eq_of_toNat_eq
  rw [BitVec.toNat_setWidth, BitVec.toNat_and, BitVec.toNat_ofNat, h,
    Nat.mod_eq_of_lt (show 2 ^ k - 1 < 2 ^ 32 by omega), Nat.and_two_pow_sub_one_eq_mod]
  exact Nat.mod_eq_of_lt ((Nat.mod_le _ _).trans_lt a.isLt)

theorem extractLsb'_zero_eq_and_mask {k : Nat} (hk : k ≤ 32) (a : Word) :
    (a.extractLsb' 0 k).setWidth 32 = a &&& BitVec.ofNat 32 (2 ^ k - 1) :=
  setWidth_eq_and_mask hk (by rw [BitVec.extractLsb'_toNat, Nat.shiftRight_zero])

/-- COMB_ENCODE's operands, joined again, are the low six bits of A. -/
theorem combOperands_eq_and_mask (a : Word) :
    ((a.extractLsb' 4 2).setWidth 32 <<< 4) ||| (a.extractLsb' 0 4).setWidth 32 =
      a &&& BitVec.ofNat 32 (2 ^ 6 - 1) := by
  rw [← extractLsb'_zero_eq_and_mask (by decide)]
  apply BitVec.eq_of_getLsbD_eq
  intro k hk
  rw [BitVec.getLsbD_or, BitVec.getLsbD_shiftLeft]
  by_cases h4 : k < 4
  · simp [h4, show k < 6 by omega]
  · simp [h4, hk, show k - 4 < 32 by omega, show k - 4 < 2 ↔ k < 6 by omega, show 4 + (k - 4) = k by omega]

/-! ### The bits a command reads -/

theorem opOf_and (c m : Command) : opOf (c &&& m) = opOf c &&& opOf m := BitVec.extractLsb'_and
theorem selOf_and (c m : Command) : selOf (c &&& m) = selOf c &&& selOf m := BitVec.extractLsb'_and
theorem bOf_and (c m : Command) : bOf (c &&& m) = (bOf c && bOf m) := BitVec.getLsbD_and
theorem aOf_and (c m : Command) : aOf (c &&& m) = aOf c &&& aOf m := BitVec.extractLsb'_and

/-- Every command reads all of OP. -/
theorem opOf_readMask (c : Command) : opOf (readMask c) = BitVec.allOnes 5 := by
  unfold readMask
  repeat' split
  all_goals rfl

/-- The DPD commands read all of SEL. -/
theorem selOf_readMask {c : Command} (h : opN c = 0x01 ∨ opN c = 0x02) :
    selOf (readMask c) = BitVec.allOnes 2 := by
  unfold readMask
  obtain h | h := h <;> simp only [h] <;> split <;> rfl

/-- DPD_UNPACK reads the 3n + 1 bits of its packed group (R83). -/
theorem readMask_dpdUnpack {c : Command} {n : BitVec 2} (hn : n ≠ 0#2) (h : opN c = 0x01) (hsel : selN c = n.toNat) :
    readMask c =
      mkCommand (BitVec.allOnes 5) (BitVec.allOnes 2) false (BitVec.ofNat 32 (2 ^ (3 * n.toNat + 1) - 1)) := by
  rw [readMask, h, hsel]
  obtain rfl | rfl | rfl := digitCount_cases hn <;> rfl

theorem readMask_dpdPack {c : Command} (h : opN c = 0x02) (hsel : selN c ≠ 0) :
    readMask c = mkCommand (BitVec.allOnes 5) (BitVec.allOnes 2) false (BitVec.ofNat 32 (2 ^ 10 - 1)) := by
  obtain ⟨k, hk⟩ := Nat.exists_eq_succ_of_ne_zero hsel
  rw [readMask, h, hk]
  rfl

/-! ### Encode of decode -/

/-- Clearing the bits that `readMask` clears, field by field: when the fields left are those of the instruction's
word, that word is the given one with the ignored bits cleared. -/
theorem encode_eq_and_readMask {c : Command} {i : Instr} {sel : BitVec 2} {b : Bool} {a : Word}
    (hop : opN c = (opcode i).toNat) (hmask : readMask c = mkCommand (BitVec.allOnes 5) sel b a)
    (henc : encode i = mkCommand (opcode i) (selOf c &&& sel) (bOf c && b) (aOf c &&& a)) :
    encode i = c &&& readMask c := by
  have hand : c &&& readMask c = mkCommand (opOf c &&& opOf (readMask c)) (selOf c &&& selOf (readMask c))
      (bOf c && bOf (readMask c)) (aOf c &&& aOf (readMask c)) := by
    rw [← opOf_and, ← selOf_and, ← bOf_and, ← aOf_and, mkCommand_fields]
  rw [henc, hand, hmask, opOf_mkCommand, selOf_mkCommand, bOf_mkCommand, aOf_mkCommand, BitVec.and_allOnes,
    BitVec.eq_of_toNat_eq ((opOf_toNat c).trans hop)]

/-- `encode_eq_and_readMask` for a command that reads neither SEL nor B. -/
theorem encode_eq_and_readMask_of_aOf {c : Command} {i : Instr} {a x : Word}
    (hop : opN c = (opcode i).toNat) (hmask : readMask c = mkCommand (BitVec.allOnes 5) 0 false a)
    (henc : encode i = mkCommand (opcode i) 0 false x) (hx : x = aOf c &&& a) :
    encode i = c &&& readMask c :=
  encode_eq_and_readMask hop hmask (by rw [henc, hx, Bool.and_false]; congr 1; exact BitVec.and_zero.symm)

/-- Settles O2, row by row of the opcode map (`h_k` is the row of OP value k): each command puts back the operand it
took, and that is its field with the bits outside `readMask` cleared. -/
theorem encodeOfDecodeClearsIgnoredBits : Obligations.EncodeOfDecodeClearsIgnoredBits := by
  intro c i h
  rw [decode, decodeFields, opOf_toNat] at h
  split at h
  case h_1 hop =>
    split_ifs at h with hn
    cases h
    have hwf : digitCountOk (selOf c) = true := by simpa [digitCountOk] using hn
    have hmask := readMask_dpdUnpack hn hop (selOf_toNat c).symm
    refine ⟨by rw [Instr.wellFormed, hwf, groupFits_packedOperand hn]; rfl, encode_eq_and_readMask hop hmask ?_⟩
    rw [BitVec.and_allOnes, Bool.and_false, ← setWidth_eq_and_mask (by omega) (packedOperand_toNat hn _)]
    rfl
  case h_2 hop =>
    split_ifs at h with hn
    cases h
    have hwf : digitCountOk (selOf c) = true := by simpa [digitCountOk] using hn
    have hmask := readMask_dpdPack hop (mt selOf_eq_zero_iff.2 hn)
    refine ⟨hwf, encode_eq_and_readMask hop hmask ?_⟩
    rw [BitVec.and_allOnes, Bool.and_false, ← extractLsb'_zero_eq_and_mask (by decide)]
    rfl
  case h_6 hop =>
    cases h
    have hmask : readMask c = mkCommand (BitVec.allOnes 5) 0 true 0 := by rw [readMask, hop]; rfl
    exact ⟨rfl, encode_eq_and_readMask hop hmask (by simp [encode])⟩
  -- COMB_ENCODE: two operands joined in A.
  case h_3 hop =>
    cases h
    exact ⟨rfl, encode_eq_and_readMask_of_aOf hop (by rw [readMask, hop]; rfl) rfl (combOperands_eq_and_mask _)⟩
  -- No operand.
  case h_5 hop | h_7 hop | h_8 hop | h_9 hop | h_10 hop | h_11 hop | h_13 hop | h_15 hop | h_17 hop =>
    cases h
    exact ⟨rfl, encode_eq_and_readMask_of_aOf hop (by rw [readMask, hop]; rfl) rfl BitVec.and_zero.symm⟩
  -- All of A.
  case h_14 hop | h_16 hop | h_20 hop | h_23 hop =>
    cases h
    exact ⟨rfl, encode_eq_and_readMask_of_aOf hop (by rw [readMask, hop]; rfl) rfl BitVec.and_allOnes.symm⟩
  -- The low bits of A.
  case h_4 hop | h_12 hop | h_18 hop | h_19 hop | h_21 hop | h_22 hop =>
    cases h
    exact ⟨rfl, encode_eq_and_readMask_of_aOf hop (by rw [readMask, hop]; rfl) rfl
      (extractLsb'_zero_eq_and_mask (by decide) _)⟩
  -- A reserved OP value decodes to nothing.
  case h_24 => cases h

/-! ### Words that agree on the bits read -/

section Agreement

variable {c c' : Command} (h : c &&& readMask c = c' &&& readMask c)

include h

theorem opN_eq_of_agree : opN c' = opN c := by
  have hop := congrArg opOf h
  simp only [opOf_and, opOf_readMask, BitVec.and_allOnes] at hop
  rw [← opOf_toNat, ← opOf_toNat, hop]

theorem selN_eq_of_agree (hdpd : opN c = 0x01 ∨ opN c = 0x02) : selN c' = selN c := by
  have hsel := congrArg selOf h
  simp only [selOf_and, selOf_readMask hdpd, BitVec.and_allOnes] at hsel
  rw [← selOf_toNat, ← selOf_toNat, hsel]

theorem readMask_eq_of_agree : readMask c' = readMask c := by
  rw [readMask, readMask, opN_eq_of_agree h]
  split
  case h_1 hop => rw [selN_eq_of_agree h (.inl hop)]
  case h_2 hop => rw [selN_eq_of_agree h (.inr hop)]
  all_goals rfl

theorem illegalWord_iff_of_agree : IllegalWord c' ↔ IllegalWord c := by
  unfold IllegalWord
  rw [opN_eq_of_agree h]
  exact or_congr_right (or_congr_right (and_congr_right fun hdpd => by rw [selN_eq_of_agree h hdpd]))

end Agreement

/-- A well-formed instruction is determined by its word. -/
theorem encode_injective_of_wellFormed {i i' : Instr} (hi : i.wellFormed = true) (hi' : i'.wellFormed = true)
    (h : encode i = encode i') : i = i' := by
  have hdec := congrArg decode h
  rw [decodeOfEncodeIsIdentity i hi, decodeOfEncodeIsIdentity i' hi'] at hdec
  exact Except.ok.inj hdec

/-- Settles O4: the bits read decide whether a word is illegal, and two legal words that agree on them are, with the
ignored bits cleared, one word, which is the word of both their instructions. -/
theorem ignoredBitsHaveNoEffect : Obligations.IgnoredBitsHaveNoEffect := by
  intro s c c' h
  rw [performSample_command, performSample_command]
  by_cases hill : IllegalWord c
  · rw [performCommand_of_illegalWord hill, performCommand_of_illegalWord ((illegalWord_iff_of_agree h).2 hill)]
  · obtain ⟨i, hi⟩ := decode_of_not_illegalWord hill
    obtain ⟨i', hi'⟩ := decode_of_not_illegalWord (mt (illegalWord_iff_of_agree h).1 hill)
    obtain ⟨hwf, henc⟩ := encodeOfDecodeClearsIgnoredBits c i hi
    obtain ⟨hwf', henc'⟩ := encodeOfDecodeClearsIgnoredBits c' i' hi'
    have heq : encode i = encode i' := by rw [henc, henc', readMask_eq_of_agree h, h]
    rw [performCommand_ok hi, performCommand_ok hi', encode_injective_of_wellFormed hwf hwf' heq]

end Sys2Proof
end

section
/-!
SUPPORT. The DPD codec of 40_dpd_codec.md: the decode and encoding tables row by row on the bits of a pattern and of
its digits, each the inverse of the other up to b[9:8] of a redundant pattern, and the commands DPD_UNPACK and
DPD_PACK.
-/

namespace Sys2Proof.Machine

/-! ### Declets by their bits -/

theorem toNat_declet (p q r s t u v w x y : Bool) :
    (declet p q r s t u v w x y).toNat =
      512 * p.toNat + 256 * q.toNat + 128 * r.toNat + 64 * s.toNat + 32 * t.toNat + 16 * u.toNat
        + 8 * v.toNat + 4 * w.toNat + 2 * x.toNat + y.toNat := by
  rw [declet, BitVec.toNat_ofNat, Nat.mod_eq_of_lt]
  linarith [p.toNat_le, q.toNat_le, r.toNat_le, s.toNat_le, t.toNat_le, u.toNat_le, v.toNat_le, w.toNat_le,
    x.toNat_le, y.toNat_le]

/-- R80: the bits of a declet, from b[0] = y to b[9] = p. -/
theorem declet_eq_ofBoolListLE (p q r s t u v w x y : Bool) :
    declet p q r s t u v w x y = BitVec.ofBoolListLE [y, x, w, v, u, t, s, r, q, p] := by
  apply BitVec.eq_of_toNat_eq
  simp only [toNat_declet, BitVec.ofBoolListLE, BitVec.toNat_concat, List.length_nil,
    BitVec.toNat_of_zero_length]
  ring

theorem getLsbD_declet (p q r s t u v w x y : Bool) (i : Nat) :
    (declet p q r s t u v w x y).getLsbD i = [y, x, w, v, u, t, s, r, q, p].getD i false := by
  rw [declet_eq_ofBoolListLE]
  exact BitVec.getLsbD_ofBoolListLE

theorem decletBit_declet (p q r s t u v w x y : Bool) (i : Nat) :
    decletBit (declet p q r s t u v w x y) i = ([y, x, w, v, u, t, s, r, q, p].getD i false).toNat := by
  rw [decletBit, getLsbD_declet]

/-- Every pattern is the declet of its ten bits. -/
theorem exists_eq_declet (b : Declet) : ∃ p q r s t u v w x y, b = declet p q r s t u v w x y := by
  refine ⟨b.getLsbD 9, b.getLsbD 8, b.getLsbD 7, b.getLsbD 6, b.getLsbD 5, b.getLsbD 4, b.getLsbD 3,
    b.getLsbD 2, b.getLsbD 1, b.getLsbD 0, BitVec.eq_of_getLsbD_eq fun k hk => ?_⟩
  rw [getLsbD_declet]
  interval_cases k <;> rfl

theorem declet_and (p q r s t u v w x y p' q' r' s' t' u' v' w' x' y' : Bool) :
    declet p q r s t u v w x y &&& declet p' q' r' s' t' u' v' w' x' y' =
      declet (p && p') (q && q') (r && r') (s && s') (t && t') (u && u') (v && v') (w && w') (x && x')
        (y && y') := by
  apply BitVec.eq_of_getLsbD_eq
  intro k hk
  simp only [BitVec.getLsbD_and, getLsbD_declet]
  interval_cases k <;> rfl

/-- R82: a pattern is redundant exactly when v, w, x, s and t are all 1. -/
theorem redundant_declet_iff (p q r s t u v w x y : Bool) :
    declet p q r s t u v w x y &&& 0x06E#10 = 0x06E#10 ↔
      s = true ∧ t = true ∧ v = true ∧ w = true ∧ x = true := by
  rw [show 0x06E#10 = declet false false false true true false true true true false from rfl, declet_and]
  constructor
  · intro h
    have hbit (i : Nat) := congrArg (BitVec.getLsbD · i) h
    simp only [getLsbD_declet] at hbit
    exact ⟨by simpa using hbit 6, by simpa using hbit 5, by simpa using hbit 3, by simpa using hbit 2,
      by simpa using hbit 1⟩
  · rintro ⟨rfl, rfl, rfl, rfl, rfl⟩
    simp only [Bool.and_true, Bool.and_false]

/-! ### Digits by their bits -/

/-- A digit in 0..7 from its low three bits (R85). -/
def lowDigit (b c d : Bool) : Nat := 4 * b.toNat + 2 * c.toNat + d.toNat

/-- The digit 8 or 9 from its lowest bit (R85). -/
def highDigit (d : Bool) : Nat := 8 + d.toNat

theorem lowDigit_le (b c d : Bool) : lowDigit b c d ≤ 9 := by
  revert b c d; decide

theorem highDigit_le (d : Bool) : highDigit d ≤ 9 := by
  revert d; decide

theorem digit_cases {d : Nat} (h : d ≤ 9) : (∃ b c e, d = lowDigit b c e) ∨ ∃ e, d = highDigit e := by
  interval_cases d <;> decide

theorem testBit_lowDigit (b c d : Bool) :
    (lowDigit b c d).testBit 3 = false ∧ (lowDigit b c d).testBit 2 = b ∧ (lowDigit b c d).testBit 1 = c ∧
      (lowDigit b c d).testBit 0 = d := by
  revert b c d; decide

theorem testBit_highDigit (d : Bool) :
    (highDigit d).testBit 3 = true ∧ (highDigit d).testBit 0 = d := by
  revert d; decide

/-! ### The eight rows of the decode table (R81)

A row is named by which of the digits d2, d1, d0 are low and which are high. -/

section DecodeRows

variable (p q r s t u w x y : Bool)

theorem dpd3_low_low_low :
    dpd3 (declet p q r s t u false w x y) = ⟨lowDigit p q r, lowDigit s t u, lowDigit w x y⟩ := by
  simp [dpd3, decletBit_declet, lowDigit]

theorem dpd3_low_low_high :
    dpd3 (declet p q r s t u true false false y) = ⟨lowDigit p q r, lowDigit s t u, highDigit y⟩ := by
  simp [dpd3, decletBit_declet, lowDigit, highDigit]

theorem dpd3_low_high_low :
    dpd3 (declet p q r s t u true false true y) = ⟨lowDigit p q r, highDigit u, lowDigit s t y⟩ := by
  simp [dpd3, decletBit_declet, lowDigit, highDigit]

theorem dpd3_high_low_low :
    dpd3 (declet p q r s t u true true false y) = ⟨highDigit r, lowDigit s t u, lowDigit p q y⟩ := by
  simp [dpd3, decletBit_declet, lowDigit, highDigit]

theorem dpd3_high_high_low :
    dpd3 (declet p q r false false u true true true y) = ⟨highDigit r, highDigit u, lowDigit p q y⟩ := by
  simp [dpd3, decletBit_declet, lowDigit, highDigit]

theorem dpd3_high_low_high :
    dpd3 (declet p q r false true u true true true y) = ⟨highDigit r, lowDigit p q u, highDigit y⟩ := by
  simp [dpd3, decletBit_declet, lowDigit, highDigit]

theorem dpd3_low_high_high :
    dpd3 (declet p q r true false u true true true y) = ⟨lowDigit p q r, highDigit u, highDigit y⟩ := by
  simp [dpd3, decletBit_declet, lowDigit, highDigit]

theorem dpd3_high_high_high :
    dpd3 (declet p q r true true u true true true y) = ⟨highDigit r, highDigit u, highDigit y⟩ := by
  simp [dpd3, decletBit_declet, highDigit]

end DecodeRows

/-- Settles O21, from the eight rows. -/
theorem dpdDecodeTable : Obligations.DpdDecodeTable :=
  ⟨fun _ => rfl, dpd3_low_low_low,
    fun p q r s t u y =>
      ⟨dpd3_low_low_high p q r s t u y, dpd3_low_high_low p q r s t u y, dpd3_high_low_low p q r s t u y⟩,
    fun p q r u y =>
      ⟨dpd3_high_high_low p q r u y, dpd3_high_low_high p q r u y, dpd3_low_high_high p q r u y,
        dpd3_high_high_high p q r u y⟩⟩

/-! ### The eight rows of the encoding table (R85) -/

theorem dpdEnc_of_digits {d2 d1 d0 : Nat} (h1 : d1 ≤ 9) (h0 : d0 ≤ 9) :
    dpdEnc (100 * d2 + 10 * d1 + d0) = dpdEncDigits d2 d1 d0 := by
  rw [dpdEnc]
  congr 1 <;> omega

section EncodingRows

variable (b c d f g h j k m : Bool)

theorem dpdEnc_low_low_low :
    dpdEnc (100 * lowDigit b c d + 10 * lowDigit f g h + lowDigit j k m) =
      declet b c d f g h false j k m := by
  rw [dpdEnc_of_digits (lowDigit_le _ _ _) (lowDigit_le _ _ _)]
  simp only [dpdEncDigits, testBit_lowDigit]

theorem dpdEnc_low_low_high :
    dpdEnc (100 * lowDigit b c d + 10 * lowDigit f g h + highDigit m) =
      declet b c d f g h true false false m := by
  rw [dpdEnc_of_digits (lowDigit_le _ _ _) (highDigit_le _)]
  simp only [dpdEncDigits, testBit_lowDigit, testBit_highDigit]

theorem dpdEnc_low_high_low :
    dpdEnc (100 * lowDigit b c d + 10 * highDigit h + lowDigit j k m) =
      declet b c d j k h true false true m := by
  rw [dpdEnc_of_digits (highDigit_le _) (lowDigit_le _ _ _)]
  simp only [dpdEncDigits, testBit_lowDigit, testBit_highDigit]

theorem dpdEnc_high_low_low :
    dpdEnc (100 * highDigit d + 10 * lowDigit f g h + lowDigit j k m) =
      declet j k d f g h true true false m := by
  rw [dpdEnc_of_digits (lowDigit_le _ _ _) (lowDigit_le _ _ _)]
  simp only [dpdEncDigits, testBit_lowDigit, testBit_highDigit]

theorem dpdEnc_high_high_low :
    dpdEnc (100 * highDigit d + 10 * highDigit h + lowDigit j k m) =
      declet j k d false false h true true true m := by
  rw [dpdEnc_of_digits (highDigit_le _) (lowDigit_le _ _ _)]
  simp only [dpdEncDigits, testBit_lowDigit, testBit_highDigit]

theorem dpdEnc_high_low_high :
    dpdEnc (100 * highDigit d + 10 * lowDigit f g h + highDigit m) =
      declet f g d false true h true true true m := by
  rw [dpdEnc_of_digits (lowDigit_le _ _ _) (highDigit_le _)]
  simp only [dpdEncDigits, testBit_lowDigit, testBit_highDigit]

theorem dpdEnc_low_high_high :
    dpdEnc (100 * lowDigit b c d + 10 * highDigit h + highDigit m) =
      declet b c d true false h true true true m := by
  rw [dpdEnc_of_digits (highDigit_le _) (highDigit_le _)]
  simp only [dpdEncDigits, testBit_lowDigit, testBit_highDigit]

theorem dpdEnc_high_high_high :
    dpdEnc (100 * highDigit d + 10 * highDigit h + highDigit m) =
      declet false false d true true h true true true m := by
  rw [dpdEnc_of_digits (highDigit_le _) (highDigit_le _)]
  simp only [dpdEncDigits, testBit_highDigit]

end EncodingRows

/-- Settles O24: each row is the one the digits' high bits select. -/
theorem dpdEncodeTable : Obligations.DpdEncodeTable :=
  ⟨dpdEnc_low_low_low, dpdEnc_low_low_high, dpdEnc_low_high_low, dpdEnc_high_low_low, dpdEnc_high_high_low,
    dpdEnc_high_low_high, dpdEnc_low_high_high, dpdEnc_high_high_high⟩

/-! ### Decode of encode, and encode of decode -/

theorem val3_of_dpd3 {b : Declet} {d2 d1 d0 : Nat} (h : dpd3 b = ⟨d2, d1, d0⟩) :
    val3 b = 100 * d2 + 10 * d1 + d0 := by
  rw [val3, h]

/-- The decode table as a case principle: every pattern is in one of its eight rows. -/
theorem declet_rows {P : Declet → Prop}
    (low_low_low : ∀ p q r s t u w x y, P (declet p q r s t u false w x y))
    (low_low_high : ∀ p q r s t u y, P (declet p q r s t u true false false y))
    (low_high_low : ∀ p q r s t u y, P (declet p q r s t u true false true y))
    (high_low_low : ∀ p q r s t u y, P (declet p q r s t u true true false y))
    (high_high_low : ∀ p q r u y, P (declet p q r false false u true true true y))
    (high_low_high : ∀ p q r u y, P (declet p q r false true u true true true y))
    (low_high_high : ∀ p q r u y, P (declet p q r true false u true true true y))
    (high_high_high : ∀ p q r u y, P (declet p q r true true u true true true y))
    (b : Declet) : P b := by
  obtain ⟨p, q, r, s, t, u, v, w, x, y, rfl⟩ := exists_eq_declet b
  match v, w, x, s, t with
  | false, w, x, s, t => exact low_low_low p q r s t u w x y
  | true, false, false, s, t => exact low_low_high p q r s t u y
  | true, false, true, s, t => exact low_high_low p q r s t u y
  | true, true, false, s, t => exact high_low_low p q r s t u y
  | true, true, true, false, false => exact high_high_low p q r u y
  | true, true, true, false, true => exact high_low_high p q r u y
  | true, true, true, true, false => exact low_high_high p q r u y
  | true, true, true, true, true => exact high_high_high p q r u y

/-- What re-encoding a pattern's value gives (R84): a redundant pattern loses b[9:8]. -/
def canonicalDeclet (b : Declet) : Declet := if b &&& 0x06E#10 = 0x06E#10 then b &&& 0x0FF#10 else b

theorem canonicalDeclet_of_not_redundant {p q r s t u v w x y : Bool}
    (h : ¬ (s = true ∧ t = true ∧ v = true ∧ w = true ∧ x = true)) :
    canonicalDeclet (declet p q r s t u v w x y) = declet p q r s t u v w x y :=
  if_neg (mt (redundant_declet_iff p q r s t u v w x y).1 h)

theorem canonicalDeclet_of_redundant (p q r u y : Bool) :
    canonicalDeclet (declet p q r true true u true true true y) =
      declet false false r true true u true true true y := by
  rw [canonicalDeclet, if_pos ((redundant_declet_iff ..).2 ⟨rfl, rfl, rfl, rfl, rfl⟩),
    show 0x0FF#10 = declet false false true true true true true true true true from rfl, declet_and]
  simp only [Bool.and_true, Bool.and_false]

/-- Row by row, the encoding table undoes the decode table. -/
theorem dpdEnc_val3 (b : Declet) : dpdEnc (val3 b) = canonicalDeclet b := by
  cases b using declet_rows with
  | low_low_low =>
    rw [val3_of_dpd3 (dpd3_low_low_low ..), dpdEnc_low_low_low, canonicalDeclet_of_not_redundant (by simp)]
  | low_low_high =>
    rw [val3_of_dpd3 (dpd3_low_low_high ..), dpdEnc_low_low_high, canonicalDeclet_of_not_redundant (by simp)]
  | low_high_low =>
    rw [val3_of_dpd3 (dpd3_low_high_low ..), dpdEnc_low_high_low, canonicalDeclet_of_not_redundant (by simp)]
  | high_low_low =>
    rw [val3_of_dpd3 (dpd3_high_low_low ..), dpdEnc_high_low_low, canonicalDeclet_of_not_redundant (by simp)]
  | high_high_low =>
    rw [val3_of_dpd3 (dpd3_high_high_low ..), dpdEnc_high_high_low, canonicalDeclet_of_not_redundant (by simp)]
  | high_low_high =>
    rw [val3_of_dpd3 (dpd3_high_low_high ..), dpdEnc_high_low_high, canonicalDeclet_of_not_redundant (by simp)]
  | low_high_high =>
    rw [val3_of_dpd3 (dpd3_low_high_high ..), dpdEnc_low_high_high, canonicalDeclet_of_not_redundant (by simp)]
  | high_high_high =>
    rw [val3_of_dpd3 (dpd3_high_high_high ..), dpdEnc_high_high_high, canonicalDeclet_of_redundant]

/-- Row by row, the decode table undoes the encoding table. -/
theorem val3_dpdEnc_of_digits {d2 d1 d0 : Nat} (h2 : d2 ≤ 9) (h1 : d1 ≤ 9) (h0 : d0 ≤ 9) :
    val3 (dpdEnc (100 * d2 + 10 * d1 + d0)) = 100 * d2 + 10 * d1 + d0 := by
  obtain ⟨b, c, d, rfl⟩ | ⟨d, rfl⟩ := digit_cases h2 <;>
    obtain ⟨f, g, h, rfl⟩ | ⟨h, rfl⟩ := digit_cases h1 <;>
    obtain ⟨j, k, m, rfl⟩ | ⟨m, rfl⟩ := digit_cases h0
  · rw [dpdEnc_low_low_low, val3_of_dpd3 (dpd3_low_low_low ..)]
  · rw [dpdEnc_low_low_high, val3_of_dpd3 (dpd3_low_low_high ..)]
  · rw [dpdEnc_low_high_low, val3_of_dpd3 (dpd3_low_high_low ..)]
  · rw [dpdEnc_low_high_high, val3_of_dpd3 (dpd3_low_high_high ..)]
  · rw [dpdEnc_high_low_low, val3_of_dpd3 (dpd3_high_low_low ..)]
  · rw [dpdEnc_high_low_high, val3_of_dpd3 (dpd3_high_low_high ..)]
  · rw [dpdEnc_high_high_low, val3_of_dpd3 (dpd3_high_high_low ..)]
  · rw [dpdEnc_high_high_high, val3_of_dpd3 (dpd3_high_high_high ..)]

theorem val3_dpdEnc {v : Nat} (h : v ≤ 999) : val3 (dpdEnc v) = v := by
  have hdigits : 100 * (v / 100) + 10 * (v / 10 % 10) + v % 10 = v := by omega
  have hval := val3_dpdEnc_of_digits (d2 := v / 100) (d1 := v / 10 % 10) (d0 := v % 10) (by omega) (by omega)
    (by omega)
  rwa [hdigits] at hval

/-! ### Which patterns decode alike -/

theorem dpd3_le (b : Declet) : (dpd3 b).d2 ≤ 9 ∧ (dpd3 b).d1 ≤ 9 ∧ (dpd3 b).d0 ≤ 9 := by
  cases b using declet_rows with
  | low_low_low => rw [dpd3_low_low_low]; exact ⟨lowDigit_le .., lowDigit_le .., lowDigit_le ..⟩
  | low_low_high => rw [dpd3_low_low_high]; exact ⟨lowDigit_le .., lowDigit_le .., highDigit_le _⟩
  | low_high_low => rw [dpd3_low_high_low]; exact ⟨lowDigit_le .., highDigit_le _, lowDigit_le ..⟩
  | high_low_low => rw [dpd3_high_low_low]; exact ⟨highDigit_le _, lowDigit_le .., lowDigit_le ..⟩
  | high_high_low => rw [dpd3_high_high_low]; exact ⟨highDigit_le _, highDigit_le _, lowDigit_le ..⟩
  | high_low_high => rw [dpd3_high_low_high]; exact ⟨highDigit_le _, lowDigit_le .., highDigit_le _⟩
  | low_high_high => rw [dpd3_low_high_high]; exact ⟨lowDigit_le .., highDigit_le _, highDigit_le _⟩
  | high_high_high => rw [dpd3_high_high_high]; exact ⟨highDigit_le _, highDigit_le _, highDigit_le _⟩

theorem val3_le (b : Declet) : val3 b ≤ 999 := by
  obtain ⟨h2, h1, h0⟩ := dpd3_le b
  unfold val3
  omega

theorem val3_eq_iff_canonicalDeclet_eq (b b' : Declet) :
    val3 b' = val3 b ↔ canonicalDeclet b' = canonicalDeclet b := by
  rw [← dpdEnc_val3, ← dpdEnc_val3]
  refine ⟨congrArg dpdEnc, fun h => ?_⟩
  rw [← val3_dpdEnc (val3_le b'), h, val3_dpdEnc (val3_le b)]

/-- Redundancy is read from b[7:0]. -/
theorem redundant_iff_of_low_eq {b b' : Declet} (h : b' &&& 0x0FF#10 = b &&& 0x0FF#10) :
    b' &&& 0x06E#10 = 0x06E#10 ↔ b &&& 0x06E#10 = 0x06E#10 := by
  have hmask (c : Declet) : c &&& 0x06E#10 = (c &&& 0x0FF#10) &&& 0x06E#10 := by
    rw [BitVec.and_assoc]
    rfl
  rw [hmask b, hmask b', h]

theorem canonicalDeclet_and_low (b : Declet) : canonicalDeclet b &&& 0x0FF#10 = b &&& 0x0FF#10 := by
  unfold canonicalDeclet
  split
  · rw [BitVec.and_assoc, BitVec.and_self]
  · rfl

theorem canonicalDeclet_eq_iff (b b' : Declet) : canonicalDeclet b' = canonicalDeclet b ↔
    b' = b ∨ (b &&& 0x06E#10 = 0x06E#10 ∧ b' &&& 0x0FF#10 = b &&& 0x0FF#10) := by
  constructor
  · intro h
    have hlow : b' &&& 0x0FF#10 = b &&& 0x0FF#10 := by
      rw [← canonicalDeclet_and_low b', h, canonicalDeclet_and_low]
    by_cases hb : b &&& 0x06E#10 = 0x06E#10
    · exact .inr ⟨hb, hlow⟩
    · rw [canonicalDeclet, canonicalDeclet, if_neg hb, if_neg (mt (redundant_iff_of_low_eq hlow).1 hb)] at h
      exact .inl h
  · rintro (rfl | ⟨hb, hlow⟩)
    · rfl
    · rw [canonicalDeclet, canonicalDeclet, if_pos hb, if_pos ((redundant_iff_of_low_eq hlow).2 hb), hlow]

/-- Settles O22: the digits row by row; two patterns have one value exactly when they have one canonical pattern. -/
theorem dpdDecodeIsTotal : Obligations.DpdDecodeIsTotal := by
  intro b
  obtain ⟨h2, h1, h0⟩ := dpd3_le b
  exact ⟨h2, h1, h0, val3_le b, fun b' =>
    (val3_eq_iff_canonicalDeclet_eq b b').trans (canonicalDeclet_eq_iff b b')⟩

/-! ### The canonical pattern -/

theorem canonicalDeclet_le (b : Declet) : (canonicalDeclet b).toNat ≤ b.toNat := by
  unfold canonicalDeclet
  split
  · rw [BitVec.toNat_and]
    exact Nat.and_le_left
  · exact le_rfl

theorem toNat_dpdEnc_of_le_nine {v : Nat} (h : v ≤ 9) : (dpdEnc v).toNat = v := by
  interval_cases v <;> rfl

/-- With hundreds digit 0 the pattern's bits p, q and r are 0. -/
theorem toNat_dpdEnc_lt_of_le_ninetyNine {v : Nat} (h : v ≤ 99) : (dpdEnc v).toNat < 128 := by
  have hlt (s t u v w x y : Bool) : (declet false false false s t u v w x y).toNat < 128 := by
    rw [toNat_declet]
    linarith [s.toNat_le, t.toNat_le, u.toNat_le, v.toNat_le, w.toNat_le, x.toNat_le, y.toNat_le,
      Bool.toNat_false]
  have hv : v = 100 * lowDigit false false false + 10 * (v / 10) + v % 10 := by
    rw [show lowDigit false false false = 0 from rfl]; omega
  obtain ⟨f, g, e, h1⟩ | ⟨e, h1⟩ := digit_cases (show v / 10 ≤ 9 by omega) <;>
    obtain ⟨j, k, m, h0⟩ | ⟨m, h0⟩ := digit_cases (show v % 10 ≤ 9 by omega) <;> rw [hv, h1, h0]
  · rw [dpdEnc_low_low_low]; exact hlt ..
  · rw [dpdEnc_low_low_high]; exact hlt ..
  · rw [dpdEnc_low_high_low]; exact hlt ..
  · rw [dpdEnc_low_high_high]; exact hlt ..

/-- Settles O23: every pattern of a value re-encodes to the canonical one, which is no larger. -/
theorem dpdEncodeIsSmallestPattern : Obligations.DpdEncodeIsSmallestPattern := by
  refine ⟨fun v hv => ⟨val3_dpdEnc hv, ?_⟩, dpdEnc_val3, fun _ => toNat_dpdEnc_of_le_nine,
    fun _ => toNat_dpdEnc_lt_of_le_ninetyNine⟩
  rintro b rfl
  rw [dpdEnc_val3]
  exact canonicalDeclet_le b

/-! ### DPD_UNPACK -/

/-- The group DPD_UNPACK reads, by remainder. -/
theorem setWidth_extractLsb' (a : Declet) (k : Nat) :
    (a.extractLsb' 0 k).setWidth 10 = BitVec.ofNat 10 (a.toNat % 2 ^ k) := by
  apply BitVec.eq_of_toNat_eq
  rw [BitVec.toNat_setWidth, BitVec.extractLsb'_toNat, Nat.shiftRight_zero, BitVec.toNat_ofNat]

theorem dpdN_one (a : Declet) : dpdN a 1#2 = (dpd3 (BitVec.ofNat 10 (a.toNat % 2 ^ 4))).d0 := by
  rw [← setWidth_extractLsb']
  rfl

theorem dpdN_two (a : Declet) :
    dpdN a 2#2 = 10 * (dpd3 (BitVec.ofNat 10 (a.toNat % 2 ^ 7))).d1
      + (dpd3 (BitVec.ofNat 10 (a.toNat % 2 ^ 7))).d0 := by
  rw [← setWidth_extractLsb']
  rfl

theorem dpdN_three (a : Declet) : dpdN a 3#2 = val3 a := rfl

theorem val3_mod_ten (b : Declet) : val3 b % 10 = (dpd3 b).d0 := by
  obtain ⟨-, -, h0⟩ := dpd3_le b
  rw [val3]
  omega

theorem val3_mod_hundred (b : Declet) : val3 b % 100 = 10 * (dpd3 b).d1 + (dpd3 b).d0 := by
  obtain ⟨-, h1, h0⟩ := dpd3_le b
  rw [val3]
  omega

/-- R83: the low n digits are the value modulo 10^n of the group of 3n + 1 bits. -/
theorem dpdN_eq_mod {n : BitVec 2} (hn : n ≠ 0#2) (a : Declet) :
    dpdN a n = val3 (BitVec.ofNat 10 (a.toNat % 2 ^ (3 * n.toNat + 1))) % 10 ^ n.toNat := by
  obtain rfl | rfl | rfl := digitCount_cases hn
  · exact (dpdN_one a).trans (val3_mod_ten _).symm
  · exact (dpdN_two a).trans (val3_mod_hundred _).symm
  · have hgroup : BitVec.ofNat 10 (a.toNat % 2 ^ 10) = a := by
      rw [Nat.mod_eq_of_lt a.isLt, BitVec.ofNat_toNat, BitVec.setWidth_eq]
    calc dpdN a 3#2
        = val3 a % 10 ^ 3 := (dpdN_three a).trans (Nat.mod_eq_of_lt (Nat.lt_succ_of_le (val3_le a))).symm
      _ = val3 (BitVec.ofNat 10 (a.toNat % 2 ^ 10)) % 10 ^ 3 := by rw [hgroup]

theorem ten_pow_digitCount_le : ∀ n : BitVec 2, 10 ^ n.toNat ≤ 1000 := by decide

theorem dpdN_lt {n : BitVec 2} (hn : n ≠ 0#2) (a : Declet) : dpdN a n < 10 ^ n.toNat := by
  rw [dpdN_eq_mod hn]
  exact Nat.mod_lt _ (by positivity)

/-- R86: with a digit count DPD_UNPACK completes with the digits in DOUT. -/
theorem exec_dpdUnpack_completes {n : BitVec 2} (hn : n ≠ 0#2) (packed : Declet) (s : State) :
    ∃ d : Word, exec (.dpdUnpack n packed) s = .next { s with dout := d, status := 0#3 } ∧
      d.toNat = dpdN packed n := by
  refine ⟨natWord (dpdN packed n), ?_, natWord_toNat ?_⟩
  · rw [exec_dpdUnpack, execDpdUnpack, digitCountError_pos hn]
    rfl
  · exact ((dpdN_lt hn packed).trans_le (ten_pow_digitCount_le n)).trans (by decide)

/-- Settles O26, for the digits left are a remainder modulo 10^n. -/
theorem dpdUnpackStaysInRange : Obligations.DpdUnpackStaysInRange := by
  intro n packed s hn
  obtain ⟨d, hexec, hd⟩ := exec_dpdUnpack_completes hn packed s
  exact ⟨d, hexec, hd ▸ dpdN_lt hn packed⟩

/-- Settles O25: DOUT is the digits of the group for each count, and a word with SEL = 0 is illegal. -/
theorem dpdUnpackResult : Obligations.DpdUnpackResult := by
  refine ⟨fun packed s => ?_, fun c s hop hsel =>
    performCommand_of_illegalWord (.inr (.inr ⟨.inl hop, hsel⟩)) s⟩
  obtain ⟨d3, hexec3, hd3⟩ := exec_dpdUnpack_completes (n := 3#2) (by decide) packed s
  obtain ⟨d2, hexec2, hd2⟩ := exec_dpdUnpack_completes (n := 2#2) (by decide) packed s
  obtain ⟨d1, hexec1, hd1⟩ := exec_dpdUnpack_completes (n := 1#2) (by decide) packed s
  exact ⟨⟨d3, hexec3, hd3.trans (dpdN_three packed)⟩, ⟨d2, hexec2, hd2.trans (dpdN_two packed)⟩,
    ⟨d1, hexec1, hd1.trans (dpdN_one packed)⟩⟩

/-! ### DPD_PACK -/

/-- R87: DPD_PACK of a value of at most n digits completes with its canonical pattern in DOUT. -/
theorem exec_dpdPack_completes {n : BitVec 2} {value : BitVec 10} (hn : n ≠ 0#2)
    (hfits : value.toNat < 10 ^ n.toNat) (s : State) :
    exec (.dpdPack n value) s = .next { s with dout := zext32 (dpdEnc value.toNat), status := 0#3 } := by
  rw [exec_dpdPack, execDpdPack, packError_lt hn hfits]
  rfl

theorem zext32_declet_toNat (b : Declet) : (zext32 b).toNat = b.toNat := BitVec.toNat_setWidth_of_le (by decide)

/-- Settles O27: the check passes below 10^n and raises from there on, and a word with SEL = 0 is illegal. -/
theorem dpdPackResult : Obligations.DpdPackResult := by
  refine ⟨fun n value s hn => ⟨fun hfits => ?_, fun hlarge => ?_⟩, fun c s hop hsel =>
    performCommand_of_illegalWord (.inr (.inr ⟨.inr hop, hsel⟩)) s⟩
  · exact ⟨_, exec_dpdPack_completes hn hfits s, zext32_declet_toNat _⟩
  · rw [exec_dpdPack, execDpdPack, packError_ge hn hlarge]
    rfl

/-! ### Unpack of pack -/

/-- The canonical pattern of a value of at most n digits fits the n-digit group (R83, R84). -/
theorem toNat_dpdEnc_lt {n : BitVec 2} {v : Nat} (hn : n ≠ 0#2) (h : v < 10 ^ n.toNat) :
    (dpdEnc v).toNat < 2 ^ (3 * n.toNat + 1) := by
  obtain rfl | rfl | rfl := digitCount_cases hn
  · have hv : v ≤ 9 := Nat.lt_succ_iff.1 h
    exact (toNat_dpdEnc_of_le_nine hv).trans_lt (hv.trans_lt (by decide))
  · exact toNat_dpdEnc_lt_of_le_ninetyNine (Nat.lt_succ_iff.1 h)
  · exact (dpdEnc v).isLt

theorem dpdN_dpdEnc {n : BitVec 2} {v : Nat} (hn : n ≠ 0#2) (h : v < 10 ^ n.toNat) : dpdN (dpdEnc v) n = v := by
  have hv : v ≤ 999 := Nat.le_of_lt_succ (h.trans_le (ten_pow_digitCount_le n))
  rw [dpdN_eq_mod hn, Nat.mod_eq_of_lt (toNat_dpdEnc_lt hn h), BitVec.ofNat_toNat, BitVec.setWidth_eq,
    val3_dpdEnc hv, Nat.mod_eq_of_lt h]

/-- Settles O28: the group unpacked is the whole canonical pattern, which decodes to the value. -/
theorem dpdPackThenUnpackRoundTrips : Obligations.DpdPackThenUnpackRoundTrips := by
  intro n value s hn hfits
  have hgroup : BitVec.ofNat 10 (zext32 (dpdEnc value.toNat)).toNat = dpdEnc value.toNat := by
    rw [zext32_declet_toNat, BitVec.ofNat_toNat, BitVec.setWidth_eq]
  obtain ⟨d, hexec, hd⟩ := exec_dpdUnpack_completes hn
    (BitVec.ofNat 10 (zext32 (dpdEnc value.toNat)).toNat)
    { s with dout := zext32 (dpdEnc value.toNat), status := 0#3 }
  rw [hgroup, dpdN_dpdEnc hn hfits] at hd
  exact ⟨_, _, exec_dpdPack_completes hn hfits s, hexec, hd, rfl, rfl⟩

end Sys2Proof.Machine
end

section
/-!
SUPPORT. A canonical word from its readings: the combination tables by arithmetic, the parts of the coefficient and
of the exponent as the getters report them, and the word the setters build of them (43_exponent.md, 44_coefficient.md,
45_construction.md).
-/

namespace Sys2Proof.Machine

open Sys2Proof.Safety

/-! ### The combination tables by arithmetic -/

theorem romExpAt_toNat : ∀ f : BitVec 5, (romExpAt Config.romExp f).toNat = msbN f.toNat := by decide

theorem romDigAt_toNat : ∀ f : BitVec 5, (romDigAt Config.romDig f).toNat = digN f.toNat := by decide

theorem digN_le : ∀ f < 32, digN f ≤ 9 := by decide

theorem encComb_romExpAt_romDigAt (f : BitVec 5) :
    encComb (romExpAt Config.romExp f) (romDigAt Config.romDig f) = f := by
  apply BitVec.eq_of_toNat_eq
  rw [encComb_toNat, romExpAt_toNat, romDigAt_toNat, encN_msbN_digN _ f.isLt]

/-- The field FROM_INT writes decodes to the leading digit: RESET_WORD's exp MSB is 0. -/
theorem romDigAt_encComb_resetWord {d : BitVec 4} (h : d.toNat ≤ 9) :
    romDigAt Config.romDig (encComb (romExpAt Config.romExp (combOf Config.resetWord)) d) = d := by
  have hmsb : (romExpAt Config.romExp (combOf Config.resetWord)).toNat = 0 := by decide
  apply BitVec.eq_of_toNat_eq
  rw [romDigAt_toNat, encComb_toNat, hmsb]
  exact (msbN_digN_encN 0 (by decide) _ (by omega) (.inl (by decide))).2

/-! ### The coefficient's parts -/

theorem coeffOf_div_million (rom : RomDig) (w : Word) :
    coeffOf rom w / 1000000 = (romDigAt rom (combOf w)).toNat := by
  have hupper := val3_le (upperDecletOf w)
  have hlower := val3_le (lowerDecletOf w)
  rw [coeffOf]
  omega

theorem coeffOf_mod_million (rom : RomDig) (w : Word) :
    coeffOf rom w % 1000000 = 1000 * val3 (upperDecletOf w) + val3 (lowerDecletOf w) := by
  have hupper := val3_le (upperDecletOf w)
  have hlower := val3_le (lowerDecletOf w)
  rw [coeffOf]
  omega

theorem coeffOf_le (w : Word) : coeffOf Config.romDig w ≤ 9999999 := by
  have hmsd := coeffOf_div_million Config.romDig w
  rw [romDigAt_toNat] at hmsd
  have hdigit := digN_le _ (combOf w).isLt
  omega

theorem ccontOf_eq_declets (w : Word) :
    ((upperDecletOf w).setWidth 20 <<< 10) ||| (lowerDecletOf w).setWidth 20 = ccontOf w := by
  rw [upperDecletOf_eq, lowerDecletOf_eq]
  apply BitVec.eq_of_getLsbD_eq
  intro k hk
  simp only [BitVec.getLsbD_or, BitVec.getLsbD_shiftLeft, BitVec.getLsbD_setWidth, BitVec.getLsbD_extractLsb']
  interval_cases k <;> simp

/-- Canonical declets are what CCONT_OF makes of the coefficient's six low digits. -/
theorem ccontFor_coeffOf {w : Word} (hupper : dpdEnc (val3 (upperDecletOf w)) = upperDecletOf w)
    (hlower : dpdEnc (val3 (lowerDecletOf w)) = lowerDecletOf w) (rom : RomDig) :
    ccontFor (coeffOf rom w % 1000000) = ccontOf w := by
  have hlo := val3_le (lowerDecletOf w)
  have hdiv : (1000 * val3 (upperDecletOf w) + val3 (lowerDecletOf w)) / 1000 = val3 (upperDecletOf w) := by omega
  have hmod : (1000 * val3 (upperDecletOf w) + val3 (lowerDecletOf w)) % 1000 = val3 (lowerDecletOf w) := by omega
  rw [coeffOf_mod_million, ccontFor, hdiv, hmod, hupper, hlower, ccontOf_eq_declets]

/-! ### The exponent's parts -/

theorem biasedOf_toNat (w : Word) : (biasedOf Config.romExp w).toNat = biasedN w := by
  rw [biasedOf, biased_toNat, romExpAt_toNat, combOf_toNat, econtOf_toNat, biasedN]

theorem msbN_le_two : ∀ f ≤ 29, msbN f ≤ 2 := by decide

theorem biasedN_le {w : Word} (h : combN w ≤ 29) : biasedN w ≤ 191 := by
  have hmsb := msbN_le_two _ h
  rw [biasedN, econtN]
  omega

/-- R130: below the wrap of EXP_T the reading is the exact difference. -/
theorem expOf_toInt {w : Word} (h : combN w ≤ 29) :
    (expOf Config.romExp w).toInt = (biasedN w : Int) - 101 := by
  have hbiased := biasedN_le h
  rw [expOf, biasedOf_toNat, Config.bias, s8, BitVec.toInt_ofInt]
  exact Int.bmod_eq_of_le (by omega) (by omega)

/-- Re-biasing what GET_EXPONENT reports gives the biased exponent back, wrapped or not. -/
theorem s8_expOf_add_bias (rom : RomExp) (w : Word) :
    s8 ((expOf rom w).toInt + Config.bias) = biasedOf rom w := by
  rw [s8, expOf, s8, BitVec.ofInt_add, BitVec.ofInt_toInt, ← BitVec.ofInt_add, Int.sub_add_cancel,
    BitVec.ofInt_natCast, BitVec.ofNat_toNat, BitVec.setWidth_eq]

theorem extractLsb'_biasedOf : ∀ (m : BitVec 2) (cont : BitVec 6),
    ((m.setWidth 8 <<< 6) ||| cont.setWidth 8).extractLsb' 6 2 = m ∧
      ((m.setWidth 8 <<< 6) ||| cont.setWidth 8).extractLsb' 0 6 = cont := by decide

/-- SET_EXPONENT of the exponent read from `v` writes `v`'s exp MSB, with the existing digit, and `v`'s ECONT. -/
theorem exponentWord_expOf (romExp : RomExp) (romDig : RomDig) (v w : Word) :
    exponentWord romDig w (expOf romExp v).toInt =
      withCombEcont w (encComb (romExpAt romExp (combOf v)) (romDigAt romDig (combOf w))) (econtOf v) := by
  obtain ⟨hmsb, hcont⟩ := extractLsb'_biasedOf (romExpAt romExp (combOf v)) (econtOf v)
  rw [exponentWord, s8_expOf_add_bias, biasedOf]
  simp only [hmsb, hcont]

/-! ### Building a word from its readings -/

theorem word_ext {v w : Word} (hs : signOf v = signOf w) (hc : combOf v = combOf w) (he : econtOf v = econtOf w)
    (ht : ccontOf v = ccontOf w) : v = w := by
  apply word_eq_of_fields
  · rw [← signOf_toNat, hs, signOf_toNat]
  · rw [← combOf_toNat, hc, combOf_toNat]
  · rw [← econtOf_toNat, he, econtOf_toNat]
  · rw [← ccontOf_toNat, ht, ccontOf_toNat]

/-- The word FROM_U32, SET_EXPONENT and SET_SIGN build from the readings of `w`. -/
def rebuiltWord (w : Word) : Word :=
  withSign
    (exponentWord Config.romDig (fromInt Config.resetWord Config.romExp (coeffOf Config.romDig w))
      (expOf Config.romExp w).toInt)
    (signOf w)

theorem rebuiltWord_eq {w : Word} (hupper : dpdEnc (val3 (upperDecletOf w)) = upperDecletOf w)
    (hlower : dpdEnc (val3 (lowerDecletOf w)) = lowerDecletOf w) : rebuiltWord w = w := by
  have hdigit : (romDigAt Config.romDig (combOf w)).toNat ≤ 9 := by
    rw [romDigAt_toNat]; exact digN_le _ (combOf w).isLt
  rw [rebuiltWord, exponentWord_expOf, fromInt, coefficientWord, coeffOf_div_million, BitVec.ofNat_toNat,
    BitVec.setWidth_eq, ccontFor_coeffOf hupper hlower, combOf_withCombCcont, romDigAt_encComb_resetWord hdigit,
    encComb_romExpAt_romDigAt]
  apply word_ext <;> simp

/-! ### The readings as operands -/

theorem exec_fromU32_of_le {v : Word} (h : v.toNat ≤ 9999999) (s : State) :
    exec (.fromU32 v) s = .next (writeWord (fromInt Config.resetWord s.romExp v.toNat) s) := by
  rw [exec_fromU32, execFromU32, coefficientError_le h, checked_none]

theorem exec_setExponent_of_window {e : BitVec 8} (hl : -95 ≤ e.toInt) (hu : e.toInt ≤ 96) (s : State) :
    exec (.setExponent e) s = .next (writeWord (exponentWord s.romDig s.w e.toInt) s) := by
  rw [exec_setExponent, execSetExponent, exponentError_window hl hu, checked_none]

theorem decide_zext32_ofBool : ∀ b : Bool, decide (zext32 (BitVec.ofBool b) = 1#32) = b := by decide

theorem ofInt_sext32 (e : BitVec 8) : BitVec.ofInt 8 (sext32 e).toInt = e := by
  rw [sext32, BitVec.toInt_signExtend_of_le (by decide), BitVec.ofInt_toInt]

/-- SET_SIGN of the sign GET_SIGN reports of `w`. -/
theorem exec_setSign_signReading (w : Word) (t : State) :
    exec (.setSign (decide (zext32 (BitVec.ofBool (signOf w)) = 1#32))) t =
      .next (writeWord (withSign t.w (signOf w)) t) := by
  rw [decide_zext32_ofBool]
  rfl

/-- SET_EXPONENT of the exponent GET_EXPONENT reports of `w`, which is -95 or more from a biased exponent of 6 on. -/
theorem exec_setExponent_exponentReading {w : Word} (hcomb : combN w ≤ 29) (hbiased : 6 ≤ biasedN w) (t : State) :
    exec (.setExponent (BitVec.ofInt 8 (sext32 (expOf Config.romExp w)).toInt)) t =
      .next (writeWord (exponentWord t.romDig t.w (expOf Config.romExp w).toInt) t) := by
  have he := expOf_toInt hcomb
  have hmax := biasedN_le hcomb
  rw [ofInt_sext32]
  exact exec_setExponent_of_window (by omega) (by omega) t

/-- FROM_U32 of the coefficient GET_COEFFICIENT reports of `w`. -/
theorem exec_fromU32_coefficientReading (w : Word) (t : State) :
    exec (.fromU32 (natWord (coeffOf Config.romDig w))) t =
      .next (writeWord (fromInt Config.resetWord t.romExp (coeffOf Config.romDig w)) t) := by
  have hle := coeffOf_le w
  have hcoeff : (natWord (coeffOf Config.romDig w)).toNat = coeffOf Config.romDig w :=
    natWord_toNat (hle.trans_lt (by decide))
  rw [exec_fromU32_of_le (by rw [hcoeff]; exact hle), hcoeff]

/-- Settles O52: the readings are operands the three commands accept, and the word they build of them has the four
fields of W. -/
theorem readingsDetermineCanonicalWord : Obligations.ReadingsDetermineCanonicalWord := by
  intro s hroms hcomb hbiased hupper hlower
  obtain ⟨hexp, hdig⟩ := hroms
  have hre : exec .getExponent s = .next (complete (sext32 (expOf Config.romExp s.w)) s) := by rw [← hexp]; rfl
  have hrc : exec .getCoefficient s = .next (complete (natWord (coeffOf Config.romDig s.w)) s) := by rw [← hdig]; rfl
  refine ⟨complete (zext32 (BitVec.ofBool (signOf s.w))) s, _, _, _, _, _, rfl, hre, hrc,
    exec_fromU32_coefficientReading s.w s, exec_setExponent_exponentReading hcomb hbiased _,
    exec_setSign_signReading s.w _, ?_⟩
  rw [writeWord_w, writeWord_w, writeWord_w, writeWord_romDig, hexp, hdig]
  exact rebuiltWord_eq hupper hlower

end Sys2Proof.Machine
end

section
/-!
SUPPORT. The combination-field commands (41_combination.md): the contents of the two tables, what COMB_ENCODE and
COMB_DECODE complete with, and the pair that decoding reads back from an encoded field.
-/

namespace Sys2Proof.Machine

open Sys2Proof.Safety

/-- Settles O30, from the tables by arithmetic. -/
theorem combinationTables : Obligations.CombinationTables :=
  ⟨⟨rfl, rfl⟩, fun f => ⟨romExpAt_toNat f, romDigAt_toNat f⟩⟩

/-! ### COMB_ENCODE -/

/-- R104: COMB_ENCODE of a digit in 0..9 completes with the field ENC_COMB gives. -/
theorem exec_combEncode_of_le {d : BitVec 4} (h : d.toNat ≤ 9) (m : BitVec 2) (s : State) :
    exec (.combEncode m d) s = .next (complete (zext32 (encComb m d)) s) := by
  rw [exec_combEncode, execCombEncode, combDigitError_le h, checked_none]

theorem exec_combEncode_of_gt {d : BitVec 4} (h : 9 < d.toNat) (m : BitVec 2) (s : State) :
    exec (.combEncode m d) s = .next (raise .badOperand s) := by
  rw [exec_combEncode, execCombEncode, combDigitError_gt h, checked_some]

theorem zext32_field_toNat (f : BitVec 5) : (zext32 f).toNat = f.toNat := BitVec.toNat_setWidth_of_le (by decide)

/-- Settles O31: the check of the digit passes up to 9 and raises above it. -/
theorem combEncodeResult : Obligations.CombEncodeResult := by
  refine fun m d s => ⟨fun hdigit => ?_, fun hlarge => exec_combEncode_of_gt hlarge m s⟩
  exact ⟨_, exec_combEncode_of_le hdigit m s, (zext32_field_toNat _).trans (encComb_toNat m d)⟩

/-! ### COMB_DECODE -/

/-- `(msb << 4) | digit` as arithmetic (R105). -/
theorem combReading_toNat : ∀ (msb : BitVec 2) (digit : BitVec 4),
    (zext32 msb <<< 4 ||| zext32 digit).toNat = 16 * msb.toNat + digit.toNat := by decide

/-- R105: COMB_DECODE completes with 16 times the exp MSB plus the digit the tables hold for the field. -/
theorem exec_combDecode_completes (f : BitVec 5) (s : State) :
    ∃ x : Word, exec (.combDecode f) s = .next (complete x s) ∧
      x.toNat = 16 * (romExpAt s.romExp f).toNat + (romDigAt s.romDig f).toNat :=
  ⟨_, rfl, combReading_toNat _ _⟩

theorem combEntries_of_romsAsSpecified {s : State} (hroms : RomsAsSpecified s) (f : BitVec 5) :
    16 * (romExpAt s.romExp f).toNat + (romDigAt s.romDig f).toNat = 16 * msbN f.toNat + digN f.toNat := by
  obtain ⟨hexp, hdig⟩ := hroms
  rw [hexp, hdig, romExpAt_toNat, romDigAt_toNat]

/-- Settles O32: the reading is arithmetic on the two entries, which R101 gives for the fields 30 and 31. -/
theorem combDecodeResult : Obligations.CombDecodeResult := by
  intro f s
  obtain ⟨x, hexec, hx⟩ := exec_combDecode_completes f s
  refine ⟨x, hexec, hx, fun hroms hf => BitVec.eq_of_toNat_eq ?_, fun hroms hf => BitVec.eq_of_toNat_eq ?_⟩
  all_goals
    rw [hx, combEntries_of_romsAsSpecified hroms, hf]
    rfl

/-! ### Decode of encode -/

/-- The field COMB_ENCODE leaves in DOUT, read back as the operand of COMB_DECODE. -/
theorem ofNat_zext32_field (f : BitVec 5) : BitVec.ofNat 5 (zext32 f).toNat = f := by
  rw [zext32_field_toNat, BitVec.ofNat_toNat, BitVec.setWidth_eq]

/-- Settles O33: COMB_DECODE reads the tables at the encoded field, where their formulas give the pair back as R103's
law says. -/
theorem combDecodeOfEncode : Obligations.CombDecodeOfEncode := by
  intro m d s hroms hdigit
  obtain ⟨x, hexec, hx⟩ := exec_combDecode_completes (BitVec.ofNat 5 (zext32 (encComb m d)).toNat)
    (complete (zext32 (encComb m d)) s)
  rw [ofNat_zext32_field, complete_romExp, complete_romDig, combEntries_of_romsAsSpecified hroms, encComb_toNat] at hx
  refine ⟨_, _, exec_combEncode_of_le hdigit m s, hexec, fun hpair => ?_, fun ⟨hm, hlow⟩ => ?_⟩
  · obtain ⟨hmsb, hdig⟩ := msbN_digN_encN m.toNat m.isLt d.toNat (Nat.lt_succ_of_le hdigit) hpair
    rw [complete_dout, hx, hmsb, hdig]
  · obtain ⟨hmsb, hdig⟩ := msbN_digN_encN_three d.toNat (Nat.lt_succ_of_le hlow)
    rw [complete_dout, hx, hm, hmsb, hdig]

end Sys2Proof.Machine
end

section
/-!
SUPPORT. The sign commands (42_sign.md): what the reads report of W[31], what the setters keep, and that the exponent
and the coefficient do not depend on the sign.
-/

namespace Sys2Proof.Machine

open Sys2Proof.Safety

/-! ### The sign reads -/

theorem toNat_not : ∀ b : Bool, (!b).toNat = 1 - b.toNat := by decide

/-- Settles O34: the sign as a bit is the sign as a number, and its complement is 1 minus it. -/
theorem signReadResults : Obligations.SignReadResults := by
  intro s
  have hsign : (zext32 (BitVec.ofBool (signOf s.w))).toNat = signN s.w :=
    (zext32_ofBool_toNat _).trans (signOf_toNat s.w)
  refine ⟨⟨_, rfl, hsign⟩, ⟨_, rfl, ?_⟩, ⟨_, rfl, hsign⟩⟩
  rw [zext32_ofBool_toNat, toNat_not, signOf_toNat]

/-! ### The sign setters -/

theorem signN_withSign (w : Word) (b : Bool) : signN (withSign w b) = b.toNat := by
  rw [← signOf_toNat, signOf_withSign]

/-- R116: bits 30..0 are kept. -/
theorem withSign_toNat_mod (w : Word) (b : Bool) : (withSign w b).toNat % 2 ^ 31 = w.toNat % 2 ^ 31 := by
  apply Nat.eq_of_testBit_eq
  intro k
  rw [Nat.testBit_mod_two_pow, Nat.testBit_mod_two_pow]
  by_cases hk : k < 31
  · exact congrArg (decide (k < 31) && ·) (withSign_frame (Nat.ne_of_lt hk) w b)
  · simp [hk]

/-- Settles O35, by the sign and the other bits after the masked write. -/
theorem setSignResult : Obligations.SetSignResult :=
  fun b s => ⟨withSign s.w b, rfl, signN_withSign s.w b, withSign_toNat_mod s.w b⟩

theorem exec_setSignPositive_eq (s : State) : exec .setSignPositive s = exec (.setSign false) s := by
  rw [exec_setSignPositive, execSetSignPositive, and_mask_eq_withSign, exec_setSign, execSetSign]

theorem exec_setSignNegative_eq (s : State) : exec .setSignNegative s = exec (.setSign true) s := by
  rw [exec_setSignNegative, execSetSignNegative, or_mask_eq_withSign, exec_setSign, execSetSign]

/-- Settles O36: the two masks are SET_SIGN's write of either sign. -/
theorem derivedSignSetters : Obligations.DerivedSignSetters := by
  intro s
  refine ⟨?_, ?_, exec_setSignPositive_eq s, exec_setSignNegative_eq s⟩
  · rw [exec_setSignPositive_eq]
    exact setSignResult false s
  · rw [exec_setSignNegative_eq]
    exact setSignResult true s

/-! ### Independence of the value from the sign -/

/-- R130: the exponent depends on COMB and ECONT alone. -/
theorem expOf_congr {v w : Word} (hcomb : combOf v = combOf w) (hecont : econtOf v = econtOf w) (rom : RomExp) :
    expOf rom v = expOf rom w := by
  rw [expOf, expOf, biasedOf, biasedOf, hcomb, hecont]

/-- R145: the coefficient depends on the digit of COMB and on CCONT alone. -/
theorem coeffOf_congr {rom : RomDig} {v w : Word} (hdigit : romDigAt rom (combOf v) = romDigAt rom (combOf w))
    (hccont : ccontOf v = ccontOf w) : coeffOf rom v = coeffOf rom w := by
  simp only [coeffOf, upperDecletOf_eq, lowerDecletOf_eq, hdigit, hccont]

@[simp] theorem expOf_withSign (rom : RomExp) (w : Word) (b : Bool) : expOf rom (withSign w b) = expOf rom w :=
  expOf_congr (combOf_withSign w b) (econtOf_withSign w b) rom

@[simp] theorem coeffOf_withSign (rom : RomDig) (w : Word) (b : Bool) : coeffOf rom (withSign w b) = coeffOf rom w :=
  coeffOf_congr (congrArg (romDigAt rom) (combOf_withSign w b)) (ccontOf_withSign w b)

/-- Settles O37: the write of the sign changes none of the fields the two readings depend on. -/
theorem signDoesNotDisturbValue : Obligations.SignDoesNotDisturbValue :=
  fun b s => ⟨writeWord (withSign s.w b) s, _, _, _, _, rfl, rfl, rfl,
    congrArg sext32 (expOf_withSign s.romExp s.w b), rfl, rfl,
    congrArg natWord (coeffOf_withSign s.romDig s.w b)⟩

end Sys2Proof.Machine
end

section
/-!
SUPPORT. Reading back a built word (43_exponent.md, 44_coefficient.md, 45_construction.md): the exponent and the
coefficient of the words that SET_EXPONENT and FROM_U32 write, with the specified tables.
-/

namespace Sys2Proof.Machine

open Sys2Proof.Safety

/-! ### The tables at an encoded field -/

section EncodedPair

variable {m : BitVec 2} {d : BitVec 4} (hdigit : d.toNat ≤ 9) (hpair : m.toNat ≤ 2 ∨ 8 ≤ d.toNat)
include hdigit hpair

/-- R103's law for the exp MSB. -/
theorem romExpAt_encComb : romExpAt Config.romExp (encComb m d) = m := by
  apply BitVec.eq_of_toNat_eq
  rw [romExpAt_toNat, encComb_toNat]
  exact (msbN_digN_encN m.toNat m.isLt d.toNat (Nat.lt_succ_of_le hdigit) hpair).1

/-- R103's law for the digit. -/
theorem romDigAt_encComb : romDigAt Config.romDig (encComb m d) = d := by
  apply BitVec.eq_of_toNat_eq
  rw [romDigAt_toNat, encComb_toNat]
  exact (msbN_digN_encN m.toNat m.isLt d.toNat (Nat.lt_succ_of_le hdigit) hpair).2

end EncodedPair

theorem romDigAt_toNat_le (f : BitVec 5) : (romDigAt Config.romDig f).toNat ≤ 9 := by
  rw [romDigAt_toNat]
  exact digN_le _ f.isLt

/-! ### The word SET_EXPONENT writes -/

/-- R132: an exponent of -95 or more has a biased exponent that 8 bits hold. -/
theorem s8_add_bias_toNat {e : BitVec 8} (hl : -95 ≤ e.toInt) :
    ((s8 (e.toInt + Config.bias)).toNat : Int) = e.toInt + 101 := by
  have hu := BitVec.toInt_lt (x := e)
  rw [s8, Config.bias, BitVec.toNat_ofInt]
  omega

/-- Up to 90 the exp MSB of the biased exponent is 0, 1 or 2. -/
theorem expMsb_le_two {e : BitVec 8} (hl : -95 ≤ e.toInt) (hu : e.toInt ≤ 90) :
    ((s8 (e.toInt + Config.bias)).extractLsb' 6 2).toNat ≤ 2 := by
  have hbiased := s8_add_bias_toNat hl
  rw [BitVec.extractLsb'_toNat, Nat.shiftRight_eq_div_pow]
  omega

/-- Joining the two parts of a biased exponent gives it back (R130, R132). -/
theorem biased_of_parts : ∀ b : BitVec 8,
    ((b.extractLsb' 6 2).setWidth 8 <<< 6) ||| (b.extractLsb' 0 6).setWidth 8 = b := by decide

section ExponentWord

variable {e : BitVec 8} (hl : -95 ≤ e.toInt) (hu : e.toInt ≤ 90) (w : Word)
include hl hu

theorem biasedOf_exponentWord :
    biasedOf Config.romExp (exponentWord Config.romDig w e.toInt) = s8 (e.toInt + Config.bias) := by
  rw [biasedOf, exponentWord, combOf_withCombEcont, econtOf_withCombEcont,
    romExpAt_encComb (romDigAt_toNat_le _) (.inl (expMsb_le_two hl hu)), biased_of_parts]

/-- R132 (b): the exponent written reads back. -/
theorem expOf_exponentWord : expOf Config.romExp (exponentWord Config.romDig w e.toInt) = e := by
  rw [expOf, biasedOf_exponentWord hl hu w, s8_add_bias_toNat hl, Config.bias, Int.add_sub_cancel, s8,
    BitVec.ofInt_toInt]

/-- R132 (b): the coefficient reads back as it was. -/
theorem coeffOf_exponentWord :
    coeffOf Config.romDig (exponentWord Config.romDig w e.toInt) = coeffOf Config.romDig w := by
  refine coeffOf_congr ?_ (ccontOf_withCombEcont _ _ _)
  rw [exponentWord, combOf_withCombEcont]
  exact romDigAt_encComb (romDigAt_toNat_le _) (.inl (expMsb_le_two hl hu))

end ExponentWord

/-! ### The word FROM_INT and SET_COEFFICIENT write -/

/-- The two declets of CCONT_OF hold the thousands and the units (R148). -/
theorem val3_ccontFor {r : Nat} (h : r ≤ 999999) :
    val3 ((ccontFor r).extractLsb' 10 10) = r / 1000 ∧ val3 ((ccontFor r).extractLsb' 0 10) = r % 1000 := by
  obtain ⟨hupper, hlower⟩ := declets_of_append (dpdEnc (r / 1000)) (dpdEnc (r % 1000))
  rw [ccontFor, hupper, hlower]
  exact ⟨val3_dpdEnc (by omega), val3_dpdEnc (by omega)⟩

/-- R149 (b): on a word whose exp MSB is 0, 1 or 2 the coefficient written reads back. -/
theorem coeffOf_coefficientWord {w : Word} (hmsb : (romExpAt Config.romExp (combOf w)).toNat ≤ 2) {c : Nat}
    (hc : c ≤ 9999999) : coeffOf Config.romDig (coefficientWord Config.romExp w c) = c := by
  have hdigit : (BitVec.ofNat 4 (c / 1000000)).toNat = c / 1000000 := by
    rw [BitVec.toNat_ofNat]
    omega
  obtain ⟨hupper, hlower⟩ := val3_ccontFor (r := c % 1000000) (by omega)
  rw [coeffOf, coefficientWord, combOf_withCombCcont, romDigAt_encComb (by omega) (.inl hmsb), hdigit,
    upperDecletOf_withCombCcont, lowerDecletOf_withCombCcont, hupper, hlower]
  omega

/-- R163: RESET_WORD's exp MSB is 0. -/
theorem coeffOf_fromInt {c : Nat} (hc : c ≤ 9999999) :
    coeffOf Config.romDig (fromInt Config.resetWord Config.romExp c) = c :=
  coeffOf_coefficientWord (by decide) hc

/-! ### Building and reading back -/

/-- Settles O51: SET_SIGN keeps the value, SET_EXPONENT keeps the coefficient FROM_U32 wrote, and each of the three
parts written reads back. -/
theorem everyValueCanBeBuiltAndRead : Obligations.EveryValueCanBeBuiltAndRead := by
  rintro s b e c ⟨hexp, hdig⟩ hl hu hc
  refine ⟨_, _, _, _, _, _, exec_fromU32_of_le hc s, exec_setExponent_of_window hl (by omega) _, rfl, rfl, ?_,
    rfl, ?_, rfl, ?_⟩
  · rw [complete_dout, zext32_ofBool_toNat, writeWord_w, signOf_withSign]
  · simp only [complete_dout, writeWord_w, writeWord_romExp, writeWord_romDig, hexp, hdig, expOf_withSign]
    rw [expOf_exponentWord hl hu, sext32, BitVec.toInt_signExtend_of_le (by decide)]
  · simp only [complete_dout, writeWord_w, writeWord_romDig, hexp, hdig, coeffOf_withSign]
    rw [coeffOf_exponentWord hl hu, coeffOf_fromInt hc, natWord, BitVec.ofNat_toNat, BitVec.setWidth_eq]

end Sys2Proof.Machine
end

section
/-!
SUPPORT. The exponent commands (43_exponent.md): the value GET_EXPONENT reads with the wrap of EXP_T, the fields
SET_EXPONENT writes, and what both readings give afterwards in and above the range of the round trip.
-/

namespace Sys2Proof.Machine

open Sys2Proof.Safety

/-! ### GET_EXPONENT -/

theorem sext32_toInt (e : BitVec 8) : (sext32 e).toInt = e.toInt := BitVec.toInt_signExtend_of_le (by decide)

/-- R130: the narrowing subtracts 256 from the differences above 127 and keeps the others. -/
theorem s8_toInt_of_biased {b : Nat} (hb : b < 256) :
    (s8 ((b : Int) - Config.bias)).toInt = wrapExp ((b : Int) - 101) := by
  rw [s8, Config.bias, BitVec.toInt_ofInt, wrapExp]
  by_cases hwrap : (b : Int) - 101 ≤ 127
  · rw [if_pos hwrap]
    exact Int.bmod_eq_of_le (by omega) (by omega)
  · rw [if_neg hwrap, ← Int.sub_bmod_right]
    exact Int.bmod_eq_of_le (by omega) (by omega)

theorem expOf_toInt_eq_wrapExp (rom : RomExp) (w : Word) :
    (expOf rom w).toInt = wrapExp ((64 * (romExpAt rom (combOf w)).toNat + econtN w : Nat) - 101) := by
  rw [expOf, s8_toInt_of_biased (biasedOf rom w).isLt, biasedOf, biased_toNat, econtOf_toNat]

/-- Settles O38: the reading is the narrowed difference, which sign extension keeps. -/
theorem getExponentResult : Obligations.GetExponentResult :=
  fun s => ⟨sext32 (expOf s.romExp s.w), rfl, (sext32_toInt _).trans (expOf_toInt_eq_wrapExp s.romExp s.w)⟩

/-! ### SET_EXPONENT -/

theorem signN_exponentWord (rom : RomDig) (w : Word) (e : Int) : signN (exponentWord rom w e) = signN w := by
  rw [← signOf_toNat, exponentWord, signOf_withCombEcont, signOf_toNat]

theorem ccontN_exponentWord (rom : RomDig) (w : Word) (e : Int) : ccontN (exponentWord rom w e) = ccontN w := by
  rw [← ccontOf_toNat, exponentWord, ccontOf_withCombEcont, ccontOf_toNat]

section Written

variable {e : BitVec 8} (hl : -95 ≤ e.toInt) (rom : RomDig) (w : Word)
include hl

/-- R132: ECONT is the low six bits of the biased exponent. -/
theorem econtN_exponentWord : (econtN (exponentWord rom w e.toInt) : Int) = (e.toInt + 101) % 64 := by
  have hbiased := s8_add_bias_toNat hl
  rw [← econtOf_toNat, exponentWord, econtOf_withCombEcont, BitVec.extractLsb'_toNat, Nat.shiftRight_zero]
  omega

/-- R132: COMB encodes the top two bits of the biased exponent with the existing digit. -/
theorem combN_exponentWord : combN (exponentWord rom w e.toInt) =
    encN ((e.toInt + 101) / 64).toNat (romDigAt rom (combOf w)).toNat := by
  have hbiased := s8_add_bias_toNat hl
  have hmsb : ((s8 (e.toInt + Config.bias)).extractLsb' 6 2).toNat = ((e.toInt + 101) / 64).toNat := by
    rw [BitVec.extractLsb'_toNat, Nat.shiftRight_eq_div_pow]
    omega
  rw [← combOf_toNat, exponentWord, combOf_withCombEcont, encComb_toNat, hmsb]

end Written

theorem exec_setExponent_of_gt {e : BitVec 8} (h : 96 < e.toInt) (s : State) :
    exec (.setExponent e) s = .next (raise .expTooLarge s) := by
  rw [exec_setExponent, execSetExponent, exponentError_gt h, checked_some]

theorem exec_setExponent_of_lt {e : BitVec 8} (h : e.toInt < -95) (s : State) :
    exec (.setExponent e) s = .next (raise .expTooSmall s) := by
  rw [exec_setExponent, execSetExponent, exponentError_lt h, checked_some]

/-- Settles O39: the window's check passes or raises, and each field of the word written is as R132 gives it. -/
theorem setExponentResult : Obligations.SetExponentResult := by
  refine fun e s => ⟨fun hl hu => ?_, fun h => exec_setExponent_of_gt h s, fun h => exec_setExponent_of_lt h s⟩
  exact ⟨exponentWord s.romDig s.w e.toInt, exec_setExponent_of_window hl hu s, signN_exponentWord _ _ _,
    ccontN_exponentWord _ _ _, econtN_exponentWord hl _ _, fun _ => combN_exponentWord hl _ _⟩

/-! ### The round trip -/

/-- Settles O40: the word SET_EXPONENT writes has the exponent written and the coefficient of W. -/
theorem setExponentRoundTrips : Obligations.SetExponentRoundTrips := by
  rintro e s ⟨hexp, hdig⟩ hl hu
  refine ⟨_, _, _, _, exec_setExponent_of_window hl (by omega) s, rfl, ?_, rfl, rfl, ?_⟩
  · rw [complete_dout, writeWord_w, writeWord_romExp, hexp, hdig, sext32_toInt, expOf_exponentWord hl hu]
  · rw [complete_dout, complete_dout, writeWord_w, writeWord_romDig, hdig, coeffOf_exponentWord hl hu]

/-! ### The top of the window -/

theorem romDigAt_combOf_toNat (w : Word) : (romDigAt Config.romDig (combOf w)).toNat = digN (combN w) := by
  rw [romDigAt_toNat, combOf_toNat]

theorem expOf_toInt_eq_wrapExp_biasedN (w : Word) :
    (expOf Config.romExp w).toInt = wrapExp ((biasedN w : Int) - 101) := by
  rw [expOf_toInt_eq_wrapExp, romExpAt_toNat, combOf_toNat, biasedN]

theorem biasedN_lt (w : Word) : biasedN w < 256 := by
  rw [← biasedOf_toNat]
  exact (biasedOf Config.romExp w).isLt

/-- R145: words of the same CCONT have coefficients that differ by their leading digits. -/
theorem coeffOf_add_digN {v w : Word} (hccont : ccontOf v = ccontOf w) :
    coeffOf Config.romDig v + 1000000 * digN (combN w) = coeffOf Config.romDig w + 1000000 * digN (combN v) := by
  simp only [coeffOf, romDigAt_combOf_toNat, upperDecletOf_eq, lowerDecletOf_eq, hccont]
  omega

theorem natWord_coeffOf_toNat (w : Word) : (natWord (coeffOf Config.romDig w)).toNat = coeffOf Config.romDig w :=
  natWord_toNat ((coeffOf_le w).trans_lt (by decide))

section TopOfWindow

variable {e : BitVec 8} (hl : 91 ≤ e.toInt) (hu : e.toInt ≤ 96) (w : Word)
include hl hu

/-- R132 (c): in 91..96 the top two bits of the biased exponent are 3. -/
theorem combN_exponentWord_top :
    combN (exponentWord Config.romDig w e.toInt) = encN 3 (digN (combN w)) := by
  have hmsb : ((e.toInt + 101) / 64).toNat = 3 := by omega
  rw [combN_exponentWord (by omega), romDigAt_combOf_toNat, hmsb]

/-- R132 (c): the exponent that is read back, by the exp MSB that the field written decodes to. -/
theorem expOf_exponentWord_top : (expOf Config.romExp (exponentWord Config.romDig w e.toInt)).toInt =
    e.toInt - 192 + 64 * (msbN (encN 3 (digN (combN w))) : Int) := by
  have hecont := econtN_exponentWord (e := e) (by omega) Config.romDig w
  have hbiased := biasedN_lt (exponentWord Config.romDig w e.toInt)
  rw [biasedN, combN_exponentWord_top hl hu] at hbiased
  rw [expOf_toInt_eq_wrapExp_biasedN, biasedN, combN_exponentWord_top hl hu, wrapExp, if_pos (by omega)]
  omega

/-- R132 (c): the coefficient that is read back, by the digit that the field written decodes to. -/
theorem coeffOf_exponentWord_top :
    coeffOf Config.romDig (exponentWord Config.romDig w e.toInt) + 1000000 * digN (combN w) =
      coeffOf Config.romDig w + 1000000 * digN (encN 3 (digN (combN w))) := by
  rw [← combN_exponentWord_top hl hu]
  exact coeffOf_add_digN (ccontOf_withCombEcont _ _ _)

end TopOfWindow

/-- Settles O41: R103's law says what the field written, of exp MSB 3, decodes to: the pair itself for the digits 8
and 9, another for the digits 0..7. -/
theorem setExponentTopOfWindow : Obligations.SetExponentTopOfWindow := by
  rintro e s ⟨hexp, hdig⟩ hl hu
  have hexponent := expOf_exponentWord_top hl hu s.w
  have hcoefficient := coeffOf_exponentWord_top hl hu s.w
  refine ⟨_, _, _, _, exec_setExponent_of_window (by omega) hu s, rfl, rfl, rfl, fun hhigh => ?_, fun hlow => ?_⟩
  all_goals
    simp only [complete_dout, writeWord_w, writeWord_romExp, writeWord_romDig, hexp, hdig, sext32_toInt]
  · have hdigit := digN_le (combN s.w) (Nat.mod_lt _ (by decide))
    obtain ⟨hmsb, hmsd⟩ := msbN_digN_encN 3 (by decide) _ (Nat.lt_succ_of_le hdigit) (.inr hhigh)
    rw [hmsb] at hexponent
    rw [hmsd] at hcoefficient
    exact ⟨by omega, congrArg natWord (Nat.add_right_cancel hcoefficient)⟩
  · obtain ⟨hmsb, hmsd⟩ := msbN_digN_encN_three _ (Nat.lt_succ_of_le hlow)
    rw [hmsb] at hexponent
    rw [hmsd] at hcoefficient
    rw [natWord_coeffOf_toNat, natWord_coeffOf_toNat]
    exact ⟨hexponent, hcoefficient⟩

end Sys2Proof.Machine
end

section
/-!
SUPPORT. The coefficient commands (44_coefficient.md): the number GET_COEFFICIENT reads and its range, the fields
SET_COEFFICIENT writes, and what both readings give afterwards on every combination field.
-/

namespace Sys2Proof.Machine

open Sys2Proof.Safety

/-! ### GET_COEFFICIENT -/

/-- R145: DOUT can hold the coefficient, whatever 4-bit entries the table has. -/
theorem coeffOf_lt_two_pow (rom : RomDig) (w : Word) : coeffOf rom w < 2 ^ 32 := by
  have hmsd := coeffOf_div_million rom w
  have hdigit := (romDigAt rom (combOf w)).isLt
  omega

theorem ofNat_upperN (w : Word) : BitVec.ofNat 10 (upperN w) = upperDecletOf w := by
  rw [← upperDecletOf_toNat, BitVec.ofNat_toNat, BitVec.setWidth_eq]

theorem ofNat_lowerN (w : Word) : BitVec.ofNat 10 (lowerN w) = lowerDecletOf w := by
  rw [← lowerDecletOf_toNat, BitVec.ofNat_toNat, BitVec.setWidth_eq]

/-- Settles O42: the sum of R145 fits in DOUT, and its declets are the two fields read as numbers. -/
theorem getCoefficientResult : Obligations.GetCoefficientResult := by
  refine fun s => ⟨natWord (coeffOf s.romDig s.w), rfl, ?_⟩
  rw [natWord_toNat (coeffOf_lt_two_pow _ _), ofNat_upperN, ofNat_lowerN, coeffOf]

/-- Settles O43: the specified table holds digits, so the coefficient has at most seven. -/
theorem coefficientIsInRange : Obligations.CoefficientIsInRange := by
  rintro s ⟨-, hdig⟩
  refine ⟨natWord (coeffOf s.romDig s.w), rfl, ?_⟩
  rw [hdig, natWord_coeffOf_toNat]
  exact coeffOf_le s.w

/-! ### SET_COEFFICIENT -/

theorem exec_setCoefficient_of_le {c : Word} (h : c.toNat ≤ 9999999) (s : State) :
    exec (.setCoefficient c) s = .next (writeWord (coefficientWord s.romExp s.w c.toNat) s) := by
  rw [exec_setCoefficient, execSetCoefficient, coefficientError_le h, checked_none]

theorem exec_setCoefficient_of_gt {c : Word} (h : 9999999 < c.toNat) (s : State) :
    exec (.setCoefficient c) s = .next (raise .coeffOutOfRange s) := by
  rw [exec_setCoefficient, execSetCoefficient, coefficientError_gt h, checked_some]

section CoefficientWord

variable (rom : RomExp) (w : Word)

theorem signN_coefficientWord (c : Nat) : signN (coefficientWord rom w c) = signN w := by
  rw [← signOf_toNat, coefficientWord, signOf_withCombCcont, signOf_toNat]

theorem econtN_coefficientWord (c : Nat) : econtN (coefficientWord rom w c) = econtN w := by
  rw [← econtOf_toNat, coefficientWord, econtOf_withCombCcont, econtOf_toNat]

/-- R149: COMB encodes the existing exp MSB with the leading digit of c. -/
theorem combN_coefficientWord {c : Nat} (hc : c ≤ 9999999) :
    combN (coefficientWord rom w c) = encN (romExpAt rom (combOf w)).toNat (c / 1000000) := by
  have hdigit : (BitVec.ofNat 4 (c / 1000000)).toNat = c / 1000000 := by
    rw [BitVec.toNat_ofNat]
    omega
  rw [← combOf_toNat, coefficientWord, combOf_withCombCcont, encComb_toNat, hdigit]

/-- R148: the upper declet is the canonical pattern of the thousands. -/
theorem upperDecletOf_coefficientWord (c : Nat) :
    upperDecletOf (coefficientWord rom w c) = dpdEnc (c / 1000 % 1000) := by
  have hthousands : c % 1000000 / 1000 = c / 1000 % 1000 := by omega
  rw [coefficientWord, upperDecletOf_withCombCcont, ccontFor, (declets_of_append _ _).1, hthousands]

/-- R148: the lower declet is the canonical pattern of the units. -/
theorem lowerDecletOf_coefficientWord (c : Nat) :
    lowerDecletOf (coefficientWord rom w c) = dpdEnc (c % 1000) := by
  have hunits : c % 1000000 % 1000 = c % 1000 := by omega
  rw [coefficientWord, lowerDecletOf_withCombCcont, ccontFor, (declets_of_append _ _).2, hunits]

theorem upperN_coefficientWord (c : Nat) :
    upperN (coefficientWord rom w c) = (dpdEnc (c / 1000 % 1000)).toNat := by
  rw [← upperDecletOf_toNat, upperDecletOf_coefficientWord]

theorem lowerN_coefficientWord (c : Nat) :
    lowerN (coefficientWord rom w c) = (dpdEnc (c % 1000)).toNat := by
  rw [← lowerDecletOf_toNat, lowerDecletOf_coefficientWord]

end CoefficientWord

/-- Settles O44: the range check passes or raises, and each field of the word written is as R149 gives it. -/
theorem setCoefficientResult : Obligations.SetCoefficientResult := by
  refine fun c s => ⟨fun hc => ?_, fun h => exec_setCoefficient_of_gt h s⟩
  exact ⟨coefficientWord s.romExp s.w c.toNat, exec_setCoefficient_of_le hc s, signN_coefficientWord _ _ _,
    econtN_coefficientWord _ _ _, combN_coefficientWord _ _ hc, upperN_coefficientWord _ _ _,
    lowerN_coefficientWord _ _ _⟩

/-! ### Both readings of the word written -/

theorem natWord_of_toNat (c : Word) : natWord c.toNat = c := by
  rw [natWord, BitVec.ofNat_toNat, BitVec.setWidth_eq]

theorem romExpAt_combOf_toNat (w : Word) : (romExpAt Config.romExp (combOf w)).toNat = msbN (combN w) := by
  rw [romExpAt_toNat, combOf_toNat]

/-- R130: words of the same biased exponent have the same exponent. -/
theorem expOf_eq_of_biasedN_eq {v w : Word} (h : biasedN v = biasedN w) :
    expOf Config.romExp v = expOf Config.romExp w := by
  rw [expOf, expOf, biasedOf_toNat, biasedOf_toNat, h]

section ReadBack

variable {c : Nat} (hc : c ≤ 9999999) (w : Word)
include hc

/-- R149 on every combination field: the six low digits read back as written, the leading one as the digit that the
field written decodes to. -/
theorem coeffOf_coefficientWord_eq : coeffOf Config.romDig (coefficientWord Config.romExp w c) =
    1000000 * digN (encN (msbN (combN w)) (c / 1000000)) + c % 1000000 := by
  rw [coeffOf, romDigAt_combOf_toNat, combN_coefficientWord _ _ hc, romExpAt_combOf_toNat,
    upperDecletOf_coefficientWord, lowerDecletOf_coefficientWord, val3_dpdEnc (by omega), val3_dpdEnc (by omega)]
  omega

/-- R149: ECONT is kept, and the exp MSB is what the field written decodes to. -/
theorem biasedN_coefficientWord : biasedN (coefficientWord Config.romExp w c) =
    64 * msbN (encN (msbN (combN w)) (c / 1000000)) + econtN w := by
  rw [biasedN, combN_coefficientWord _ _ hc, romExpAt_combOf_toNat, econtN_coefficientWord]

/-- Where R103's law gives the pair back, the coefficient reads as written and the exponent as before. -/
theorem readings_coefficientWord_of_pair (hpair : msbN (combN w) ≤ 2 ∨ 8 ≤ c / 1000000) :
    coeffOf Config.romDig (coefficientWord Config.romExp w c) = c ∧
      expOf Config.romExp (coefficientWord Config.romExp w c) = expOf Config.romExp w := by
  have hmsbLt : msbN (combN w) < 4 := romExpAt_combOf_toNat w ▸ (romExpAt Config.romExp (combOf w)).isLt
  obtain ⟨hmsb, hdigit⟩ := msbN_digN_encN (msbN (combN w)) hmsbLt (c / 1000000) (by omega) hpair
  refine ⟨?_, expOf_eq_of_biasedN_eq ?_⟩
  · rw [coeffOf_coefficientWord_eq hc, hdigit]
    omega
  · rw [biasedN_coefficientWord hc, hmsb, biasedN]

end ReadBack

/-- Settles O45: the exp MSB of the fields 0..29 is at most 2, so the field written decodes to the pair it encodes. -/
theorem setCoefficientRoundTrips : Obligations.SetCoefficientRoundTrips := by
  rintro c s ⟨hexp, hdig⟩ hcomb hc
  obtain ⟨hcoefficient, hexponent⟩ := readings_coefficientWord_of_pair hc s.w (.inl (msbN_le_two _ hcomb))
  refine ⟨_, _, _, _, exec_setCoefficient_of_le hc s, rfl, ?_, rfl, rfl, ?_⟩
  all_goals simp only [complete_dout, writeWord_w, writeWord_romExp, writeWord_romDig, hexp, hdig]
  · rw [hcoefficient, natWord_of_toNat]
  · rw [hexponent]

/-! ### The top fields -/

theorem msbN_of_ge_thirty : ∀ f < 32, 30 ≤ f → msbN f = 3 := by decide

/-- Settles O46: the exp MSB of the fields 30 and 31 is 3, so R103's law gives back the pair for a leading digit of 8
or 9 and another for one in 0..7. -/
theorem setCoefficientOnTopFields : Obligations.SetCoefficientOnTopFields := by
  rintro c s ⟨hexp, hdig⟩ hcomb hc
  refine ⟨_, _, _, _, exec_setCoefficient_of_le hc s, rfl, rfl, rfl, fun hhigh => ?_, fun hlow => ?_⟩
  all_goals simp only [complete_dout, writeWord_w, writeWord_romExp, writeWord_romDig, hexp, hdig]
  · obtain ⟨hcoefficient, hexponent⟩ := readings_coefficientWord_of_pair hc s.w (.inr (by omega))
    rw [hcoefficient, hexponent, natWord_of_toNat]
    exact ⟨rfl, rfl⟩
  · have htop : msbN (combN s.w) = 3 := msbN_of_ge_thirty _ (Nat.mod_lt _ (by decide)) hcomb
    obtain ⟨hmsb, hdigit⟩ := msbN_digN_encN_three (c.toNat / 1000000) (by omega)
    rw [natWord_coeffOf_toNat, coeffOf_coefficientWord_eq hc, sext32_toInt, expOf_toInt_eq_wrapExp_biasedN,
      biasedN_coefficientWord hc, htop, hmsb, hdigit]
    exact ⟨rfl, rfl⟩

end Sys2Proof.Machine
end

section
/-!
SUPPORT. The construction commands (45_construction.md): the fields of the word FROM_INT builds, when each FROM_
command writes it, and what the readings give of it.
-/

namespace Sys2Proof.Machine

open Sys2Proof.Safety

/-! ### NEW, LOAD_RAW, READ_RAW -/

/-- Settles O47: each of the three is the write or the read its rule gives, with no check before it. -/
theorem wholeWordCommandResults : Obligations.WholeWordCommandResults :=
  fun _ => ⟨rfl, fun _ => rfl, rfl⟩

/-! ### Which commands write FROM_INT -/

theorem exec_fromU32_of_gt {v : Word} (h : 9999999 < v.toNat) (s : State) :
    exec (.fromU32 v) s = .next (raise .coeffOutOfRange s) := by
  rw [exec_fromU32, execFromU32, coefficientError_gt h, checked_some]

theorem exec_fromU32Checked_of_gt {v : Word} (h : 9999999 < v.toNat) (s : State) :
    exec (.fromU32Checked v) s = .next (raise .noValue s) := by
  rw [exec_fromU32Checked, execFromU32Checked, conversionError_gt h, checked_some]

/-- R167: no u8 loses information, so the checked conversion has no check. -/
theorem exec_fromU8Checked_eq (v : BitVec 8) (s : State) : exec (.fromU8Checked v) s = exec (.fromU8 v) s := rfl

/-- R168: nor does a u16. -/
theorem exec_fromU16Checked_eq (v : BitVec 16) (s : State) : exec (.fromU16Checked v) s = exec (.fromU16 v) s := rfl

/-- R169: the two checks of a u32 pass together. -/
theorem exec_fromU32Checked_eq {v : Word} (h : v.toNat ≤ 9999999) (s : State) :
    exec (.fromU32Checked v) s = exec (.fromU32 v) s := by
  rw [exec_fromU32_of_le h, exec_fromU32Checked, execFromU32Checked, conversionError_le h, checked_none]

/-- Settles O50: a checked conversion differs from the unchecked one in the status above 9,999,999 only. -/
theorem checkedConversionsAgree : Obligations.CheckedConversionsAgree :=
  fun s => ⟨fun v => exec_fromU8Checked_eq v s, fun v => exec_fromU16Checked_eq v s,
    fun _ h => exec_fromU32Checked_eq h s⟩

/-! ### The fields of FROM_INT -/

/-- R163: RESET_WORD has the combination field 24. -/
theorem combOf_resetWord : combOf Config.resetWord = 24#5 := by decide

/-- R163: the fields of FROM_INT are those R149 writes on RESET_WORD, whose sign and ECONT are 0. -/
theorem isFromInt_fromInt (rom : RomExp) {v : Nat} (hv : v ≤ 9999999) :
    IsFromInt rom v (fromInt Config.resetWord rom v) := by
  have hsign : signN Config.resetWord = 0 := by decide
  have hecont : econtN Config.resetWord = 0 := by decide
  refine ⟨?_, ?_, ?_, upperN_coefficientWord _ _ _, lowerN_coefficientWord _ _ _⟩
  · rw [fromInt, signN_coefficientWord, hsign]
  · rw [fromInt, econtN_coefficientWord, hecont]
  · rw [fromInt, combN_coefficientWord _ _ hv, combOf_resetWord]

/-- A command that writes FROM_INT of an integer in range completes with a word of the fields R163 gives. -/
theorem completes_with_isFromInt {i : Instr} {s : State} {v : Nat} (hv : v ≤ 9999999)
    (hexec : exec i s = .next (writeWord (fromInt Config.resetWord s.romExp v) s)) :
    ∃ x : Word, exec i s = .next { s with w := x, dout := x, status := 0#3 } ∧ IsFromInt s.romExp v x :=
  ⟨fromInt Config.resetWord s.romExp v, hexec, isFromInt_fromInt s.romExp hv⟩

/-- Settles O48: the checked commands agree with the unchecked ones, each of which writes FROM_INT of an operand in
range; a u8 and a u16 always are. -/
theorem fromIntegerResults : Obligations.FromIntegerResults := by
  intro s
  have hu8 (v : BitVec 8) := completes_with_isFromInt (i := .fromU8 v) (s := s) (v := v.toNat) (by omega) rfl
  have hu16 (v : BitVec 16) := completes_with_isFromInt (i := .fromU16 v) (s := s) (v := v.toNat) (by omega) rfl
  have hu32 (v : Word) (hv : v.toNat ≤ 9999999) := completes_with_isFromInt hv (exec_fromU32_of_le hv s)
  refine ⟨hu8, hu16, hu32, fun v => ?_, fun v => ?_, fun v hv => ?_, fun v hv => ?_⟩
  · rw [exec_fromU8Checked_eq]
    exact hu8 v
  · rw [exec_fromU16Checked_eq]
    exact hu16 v
  · rw [exec_fromU32Checked_eq hv]
    exact hu32 v hv
  · exact ⟨exec_fromU32_of_gt hv s, exec_fromU32Checked_of_gt hv s⟩

/-! ### Reading back -/

/-- R163: the exponent of FROM_INT is that of RESET_WORD, whose exp MSB is 0. -/
theorem expOf_fromInt {v : Nat} (hv : v ≤ 9999999) :
    expOf Config.romExp (fromInt Config.resetWord Config.romExp v) = BitVec.ofInt 8 (-101) := by
  have hmsb : msbN (combN Config.resetWord) ≤ 2 := by decide
  rw [fromInt, (readings_coefficientWord_of_pair hv _ (.inl hmsb)).2, expOf_resetWord]

theorem signOf_fromInt (rom : RomExp) (v : Nat) : signOf (fromInt Config.resetWord rom v) = false := by
  rw [fromInt, coefficientWord, signOf_withCombCcont]
  decide

/-- Settles O49: the word FROM_U32 writes is built on RESET_WORD, so neither the sign nor the exponent depends on
what W held. -/
theorem fromIntegerReadsBack : Obligations.FromIntegerReadsBack := by
  rintro v s ⟨hexp, hdig⟩ hv
  refine ⟨_, _, _, _, exec_fromU32_of_le hv s, rfl, ?_, rfl, ?_, rfl, ?_⟩
  all_goals simp only [complete_dout, writeWord_w, writeWord_romExp, writeWord_romDig, hexp, hdig]
  · rw [coeffOf_fromInt hv, natWord_of_toNat]
  · rw [expOf_fromInt hv, sext32_toInt]
    decide
  · rw [signOf_fromInt]
    decide

end Sys2Proof.Machine
end

section
/-!
SUPPORT. The exceptions of 60_exceptions.md: every step leaves a next state (R185), a failed command is precise
(R186), and the status each command word leaves (R187).
-/

namespace Sys2Proof.Machine

open Sys2Proof.Safety

/-! ### Every step completes -/

/-- Settles O10: no sample is taken. -/
theorem idleBlockHoldsItsState : Obligations.IdleBlockHoldsItsState := fun _ h => step_nil h

/-- Settles O11: an idle step has no sample to take, and a reset and a command keep the samples behind the one
taken. -/
theorem everyStepCompletes : Obligations.EveryStepCompletes := by
  intro s
  obtain ⟨hnil, h⟩ | ⟨p, rest, hcons, h | ⟨d, h⟩ | ⟨v, h⟩ | ⟨st, -, h⟩⟩ := step_cases s
  · exact ⟨s, h, by rw [hnil, List.tail_nil]⟩
  all_goals exact ⟨_, h, by rw [hcons, List.tail_cons]; rfl⟩

/-! ### Failed commands -/

/-- R186: a command word that leaves a status other than OK has raised that status and done nothing else. -/
theorem eq_raise_of_status_ne_ok {c : Command} {s t : State} (h : performCommand c s = .next t)
    (hfail : t.status ≠ 0#3) : ∃ st, t = raise st s := by
  obtain ⟨d, hs⟩ | ⟨v, hs⟩ | ⟨st, -, hs⟩ := performCommand_cases c s <;> cases hs.symm.trans h
  · exact absurd (complete_status d s) hfail
  · exact absurd (writeWord_status v s) hfail
  · exact ⟨st, rfl⟩

/-- Settles O17: raising a status writes DOUT and STATUS only, and code 7 is the code of no status. -/
theorem failedCommandIsPrecise : Obligations.FailedCommandIsPrecise := by
  intro s t c h hfail
  obtain ⟨st, rfl⟩ := eq_raise_of_status_ne_ok h hfail
  exact ⟨statusCode_ne_seven st, rfl⟩

/-! ### The status of every command -/

section Checked

variable {error : Option Status} {st : Status} {s effect t : State}

theorem checked_status_of_some (h : checked error s effect = .next t) (herror : error = some st) :
    t.status = statusCode st := by
  subst herror; cases h; rfl

theorem checked_status_of_none (h : checked error s effect = .next t) (herror : error = none)
    (heff : effect.status = 0#3) : t.status = 0#3 := by
  subst herror; cases h; exact heff

/-- The status of a command with one cause of failure, `cause`. -/
theorem checked_status_eq_ite {cause : Prop} [Decidable cause] (h : checked error s effect = .next t)
    (hraise : cause → error = some st) (hpass : ¬ cause → error = none) (heff : effect.status = 0#3) :
    t.status = if cause then statusCode st else 0#3 := by
  split_ifs with hcause
  · exact checked_status_of_some h (hraise hcause)
  · exact checked_status_of_none h (hpass hcause) heff

end Checked

/-- R187: the status a legal instruction leaves is the one its checks raise, and OK where it has none. -/
theorem exec_status {i : Instr} {s t : State} (hwf : i.wellFormed = true) (h : exec i s = .next t) :
    t.status = specStatus i := by
  cases i with
  | dpdUnpack n packed =>
    have hn : n ≠ 0#2 := by rintro rfl; cases hwf
    exact checked_status_of_none h (digitCountError_pos hn) rfl
  | dpdPack n value =>
    have hn : n ≠ 0#2 := by rintro rfl; cases hwf
    exact checked_status_eq_ite h (packError_ge hn) (packError_lt hn <| not_le.1 ·) rfl
  | combEncode m d => exact checked_status_eq_ite h combDigitError_gt (combDigitError_le <| not_lt.1 ·) rfl
  | setExponent e =>
    rw [specStatus]
    split_ifs with hgt hlt
    · exact checked_status_of_some h (exponentError_gt hgt)
    · exact checked_status_of_some h (exponentError_lt hlt)
    · exact checked_status_of_none h (exponentError_window (not_lt.1 hlt) (not_lt.1 hgt)) rfl
  | setCoefficient c => exact checked_status_eq_ite h coefficientError_gt (coefficientError_le <| not_lt.1 ·) rfl
  | fromU32 v => exact checked_status_eq_ite h coefficientError_gt (coefficientError_le <| not_lt.1 ·) rfl
  | fromU32Checked v => exact checked_status_eq_ite h conversionError_gt (conversionError_le <| not_lt.1 ·) rfl
  | _ => cases h; rfl

/-- Settles O18: an illegal word raises BAD_COMMAND, a legal one decodes to a well-formed instruction, and a failure
is precise. -/
theorem statusOfEveryCommand : Obligations.StatusOfEveryCommand := by
  intro s c
  obtain ⟨t, h⟩ := performCommand_completes c s
  refine ⟨t, h, fun hill => ?_, fun i hdec => ?_, fun hfail => (failedCommandIsPrecise s t c h hfail).2⟩
  · cases (performCommand_of_illegalWord hill s).symm.trans h
    rfl
  · have hwf : i.wellFormed = true := (encodeOfDecodeClearsIgnoredBits c i hdec).1
    exact exec_status hwf ((performCommand_ok hdec s).symm.trans h)

end Sys2Proof.Machine
end

section
/-!
SUPPORT. Reset (70_reset_and_hazards.md R210, R211): what a reset step writes, whatever command is presented with it.
-/

namespace Sys2Proof.Machine

/-- Settles O8: with RST asserted the step is the block's reset for every command word, and that reset writes
RESET_WORD, a cleared DOUT and OK, the values the block has after power-on. -/
theorem resetWinsOverCommand : Obligations.ResetWinsOverCommand := by
  refine ⟨fun s c => ?_, rfl, rfl, rfl⟩
  rw [performSample_reset]
  rfl

end Sys2Proof.Machine
end
